-- ==== Sys2Proof/Word.lean ====
section
/-! DEFINITION. The word types of JSQR-CORE: 32-bit words (00_scope.md R7), field elements, binary64 encodings, register numbers and polynomials. -/

namespace Sys2Proof

/-- A 32-bit word: a command word, a register of the host map, a bus word (R7, R38). -/
abbrev Word := BitVec 32

/-- Eight bits: a field element of GF(2⁸) (R67), a codeword, a byte of storage. -/
abbrev Byte := BitVec 8

/-- The 64-bit IEEE-754 encoding of a binary64 value (R11, R42). -/
abbrev F64 := BitVec 64

/-- An E-register number 0..15: every value exists, NE = 16 (R57). -/
abbrev EReg := BitVec 4

/-- A P-register number 0..7: NP = 8, so bit 3 of the 4-bit field is 0 (R57, R58). -/
abbrev PReg := BitVec 3

/-- A polynomial as its coefficient list, highest degree first (R10, R80). -/
abbrev Poly := List Byte

end Sys2Proof
end

