-- ==== Sys2Proof/Syntax.lean ====
section
/-! DEFINITION. The 32 commands of the opcode map (30_encoding.md R58), one constructor per row of spec/opcode_table.json, with the operand fields of R56 and R57 (immediates as encoded: their readings are in Machine/Operands.lean). -/

namespace Sys2Proof

/-- A command of the JSQR-CORE command set, edition 1. Operands stand in the order of the "syntax" column of R58. -/
inductive Instr where
  /-- `NOP` (R64). -/
  | nop
  /-- `GF.LI Ed, imm8` (R73). -/
  | gfLi (d : EReg) (imm : Byte)
  /-- `GF.ADD Ed, Ea, Eb` (R74). -/
  | gfAdd (d a b : EReg)
  /-- `GF.MUL Ed, Ea, Eb` (R75). -/
  | gfMul (d a b : EReg)
  /-- `GF.INV Ed, Ea` (R76). -/
  | gfInv (d a : EReg)
  /-- `P.ZERO Pd` (R87). -/
  | pZero (d : PReg)
  /-- `P.ONE Pd` (R88). -/
  | pOne (d : PReg)
  /-- `P.MONO Pd, Ea, deg` (R89); `deg` is the raw simm12 field. -/
  | pMono (d : PReg) (a : EReg) (deg : BitVec 12)
  /-- `P.LD Pd, n` (R90); `n` is the raw uimm12 field. -/
  | pLd (d : PReg) (n : BitVec 12)
  /-- `P.DEG Pa` (R91). -/
  | pDeg (a : PReg)
  /-- `P.ISZ Pa` (R92). -/
  | pIsz (a : PReg)
  /-- `P.COEF Ed, Pa, k` (R93); `k` is the raw simm12 field. -/
  | pCoef (d : EReg) (a : PReg) (k : BitVec 12)
  /-- `P.EVAL Ed, Pa, Eb` (R94). -/
  | pEval (d : EReg) (a : PReg) (b : EReg)
  /-- `P.ADD Pd, Pa, Pb` (R95). -/
  | pAdd (d a b : PReg)
  /-- `P.MUL Pd, Pa, Pb` (R96). -/
  | pMul (d a b : PReg)
  /-- `P.MULS Pd, Pa, Eb` (R97). -/
  | pMuls (d a : PReg) (b : EReg)
  /-- `P.MULM Pd, Pa, Eb, deg` (R98); `deg` is the raw simm12 field. -/
  | pMulm (d a : PReg) (b : EReg) (deg : BitVec 12)
  /-- `P.DIV Pq, Pr, Pa, Pb` (R99). -/
  | pDiv (q r a b : PReg)
  /-- `T.QQ` (R107). -/
  | tQq
  /-- `T.MAP n` (R108). -/
  | tMap (n : BitVec 12)
  /-- `S.NUDGE n` (R114). -/
  | sNudge (n : BitVec 12)
  /-- `S.GRID dim` (R115). -/
  | sGrid (dim : BitVec 12)
  /-- `S.QUAD dim` (R116). -/
  | sQuad (dim : BitVec 12)
  /-- `M.INIT dim` (R117). -/
  | mInit (dim : BitVec 12)
  /-- `M.SET x, y` (R118). -/
  | mSet (x y : Byte)
  /-- `M.GET x, y` (R119). -/
  | mGet (x y : Byte)
  /-- `D.NEW` (R128). -/
  | dNew
  /-- `D.RDBIT x, y` (R129). -/
  | dRdbit (x y : Byte)
  /-- `D.FMT` (R130). -/
  | dFmt
  /-- `D.VER` (R131). -/
  | dVer
  /-- `D.UNMASK m` (R132). -/
  | dUnmask (m : BitVec 3)
  /-- `D.CW` (R133). -/
  | dCw
deriving DecidableEq, Repr

end Sys2Proof
end

