-- ==== Sys2Proof/WellFormed.lean ====
section
/-! DEFINITION. Which terms of `Instr` are commands. The field widths of `Instr` already carry the register-number and immediate ranges of R57; the one condition the opcode map adds outside its masks is that P.DIV names two different result registers (R58, R59 case 4). -/

namespace Sys2Proof

/-- The commands that have an encoding (R58): every term, but a P.DIV whose quotient and remainder register are the same. -/
def Instr.wellFormed : Instr → Bool
  | .pDiv q r _ _ => q != r
  | _ => true

end Sys2Proof
end

