-- ==== Sys2Proof/Decode.lean ====
section
/-! DEFINITION. The command decoder (30_encoding.md R55–R60), total on every 32-bit word and refusing by name, and after it the encoder, from the same opcode map. -/

namespace Sys2Proof

/-- Why a word is no command: the four cases of R59. Each raises IllegalCommand when the word is executed (safe: the spec's own answer). -/
inductive DecodeError where
  /-- R59 case 1: OP is not one of the 32 values of R58. -/
  | unassignedOpcode
  /-- R59 case 2: a field that the command's row marks 0 is not 0. -/
  | reservedField
  /-- R59 case 3: a P-register field holds a value ≥ NP. -/
  | noSuchPolyRegister
  /-- R59 case 4: P.DIV names one register for quotient and remainder. -/
  | quotientIsRemainder
deriving DecidableEq, Repr

/-! The fields of formats R and X (R56). -/

/-- OP = w[31:24]. -/
def opField (w : Word) : BitVec 8 := w.extractLsb' 24 8
/-- D = w[23:20]. -/
def dField (w : Word) : BitVec 4 := w.extractLsb' 20 4
/-- A = w[19:16]. -/
def aField (w : Word) : BitVec 4 := w.extractLsb' 16 4
/-- B = w[15:12]. -/
def bField (w : Word) : BitVec 4 := w.extractLsb' 12 4
/-- IMM = w[11:0]. -/
def immField (w : Word) : BitVec 12 := w.extractLsb' 0 12
/-- Z = w[23:16] of format X. -/
def zField (w : Word) : BitVec 8 := w.extractLsb' 16 8
/-- XC = w[15:8] of format X. -/
def xField (w : Word) : Byte := w.extractLsb' 8 8
/-- YC = w[7:0] of format X. -/
def yField (w : Word) : Byte := w.extractLsb' 0 8

/-- A field that the command's row marks 0 (R59 case 2). -/
def mustBeZero {n : Nat} (f : BitVec n) : Except DecodeError Unit :=
  if f = 0#n then .ok () else .error .reservedField

/-- A P-register field: only 0..7 exist (R57, R59 case 3). -/
def polyRegister (f : BitVec 4) : Except DecodeError PReg :=
  if f.getLsbD 3 then .error .noSuchPolyRegister else .ok (f.setWidth 3)

/-- The command a word stands for (R58), or the case of R59 that makes it illegal. -/
def decode (w : Word) : Except DecodeError Instr :=
  let d := dField w
  let a := aField w
  let b := bField w
  let imm := immField w
  match (opField w).toNat with
  | 0x00 => do
    mustBeZero d; mustBeZero a; mustBeZero b; mustBeZero imm
    return .nop
  | 0x10 => do
    mustBeZero a; mustBeZero b; mustBeZero (imm.extractLsb' 8 4)
    return .gfLi d (imm.extractLsb' 0 8)
  | 0x11 => do
    mustBeZero imm
    return .gfAdd d a b
  | 0x12 => do
    mustBeZero imm
    return .gfMul d a b
  | 0x13 => do
    mustBeZero b; mustBeZero imm
    return .gfInv d a
  | 0x20 => do
    mustBeZero a; mustBeZero b; mustBeZero imm
    return .pZero (← polyRegister d)
  | 0x21 => do
    mustBeZero a; mustBeZero b; mustBeZero imm
    return .pOne (← polyRegister d)
  | 0x22 => do
    mustBeZero b
    return .pMono (← polyRegister d) a imm
  | 0x23 => do
    mustBeZero a; mustBeZero b
    return .pLd (← polyRegister d) imm
  | 0x24 => do
    mustBeZero d; mustBeZero b; mustBeZero imm
    return .pDeg (← polyRegister a)
  | 0x25 => do
    mustBeZero d; mustBeZero b; mustBeZero imm
    return .pIsz (← polyRegister a)
  | 0x26 => do
    mustBeZero b
    return .pCoef d (← polyRegister a) imm
  | 0x27 => do
    mustBeZero imm
    return .pEval d (← polyRegister a) b
  | 0x28 => do
    mustBeZero imm
    return .pAdd (← polyRegister d) (← polyRegister a) (← polyRegister b)
  | 0x29 => do
    mustBeZero imm
    return .pMul (← polyRegister d) (← polyRegister a) (← polyRegister b)
  | 0x2A => do
    mustBeZero imm
    return .pMuls (← polyRegister d) (← polyRegister a) b
  | 0x2B => do
    return .pMulm (← polyRegister d) (← polyRegister a) b imm
  | 0x2C => do
    mustBeZero (imm.extractLsb' 4 8)
    let q ← polyRegister d
    let r ← polyRegister (imm.extractLsb' 0 4)
    let pa ← polyRegister a
    let pb ← polyRegister b
    if q = r then .error .quotientIsRemainder else .ok (.pDiv q r pa pb)
  | 0x40 => do
    mustBeZero d; mustBeZero a; mustBeZero b; mustBeZero imm
    return .tQq
  | 0x41 => do
    mustBeZero d; mustBeZero a; mustBeZero b
    return .tMap imm
  | 0x50 => do
    mustBeZero d; mustBeZero a; mustBeZero b
    return .sNudge imm
  | 0x51 => do
    mustBeZero d; mustBeZero a; mustBeZero b
    return .sGrid imm
  | 0x52 => do
    mustBeZero d; mustBeZero a; mustBeZero b
    return .sQuad imm
  | 0x60 => do
    mustBeZero d; mustBeZero a; mustBeZero b
    return .mInit imm
  | 0x61 => do
    mustBeZero (zField w)
    return .mSet (xField w) (yField w)
  | 0x62 => do
    mustBeZero (zField w)
    return .mGet (xField w) (yField w)
  | 0x70 => do
    mustBeZero d; mustBeZero a; mustBeZero b; mustBeZero imm
    return .dNew
  | 0x71 => do
    mustBeZero (zField w)
    return .dRdbit (xField w) (yField w)
  | 0x72 => do
    mustBeZero d; mustBeZero a; mustBeZero b; mustBeZero imm
    return .dFmt
  | 0x73 => do
    mustBeZero d; mustBeZero a; mustBeZero b; mustBeZero imm
    return .dVer
  | 0x74 => do
    mustBeZero d; mustBeZero a; mustBeZero b; mustBeZero (imm.extractLsb' 3 9)
    return .dUnmask (imm.extractLsb' 0 3)
  | 0x75 => do
    mustBeZero d; mustBeZero a; mustBeZero b; mustBeZero imm
    return .dCw
  | _ => .error .unassignedOpcode

/-- Format R (R56): {OP, D, A, B, IMM}. -/
def formR (op : BitVec 8) (d a b : BitVec 4) (imm : BitVec 12) : Word := op ++ d ++ a ++ b ++ imm

/-- Format X (R56): {OP, Z = 0, XC, YC}. -/
def formX (op : BitVec 8) (x y : Byte) : Word := op ++ 0#8 ++ x ++ y

/-- A P-register number in its 4-bit field, bit 3 zero (R58). -/
def polyField (p : PReg) : BitVec 4 := p.setWidth 4

/-- The word of a command (R58). -/
def encode : Instr → Word
  | .nop => formR 0x00#8 0#4 0#4 0#4 0#12
  | .gfLi d imm => formR 0x10#8 d 0#4 0#4 (imm.setWidth 12)
  | .gfAdd d a b => formR 0x11#8 d a b 0#12
  | .gfMul d a b => formR 0x12#8 d a b 0#12
  | .gfInv d a => formR 0x13#8 d a 0#4 0#12
  | .pZero d => formR 0x20#8 (polyField d) 0#4 0#4 0#12
  | .pOne d => formR 0x21#8 (polyField d) 0#4 0#4 0#12
  | .pMono d a deg => formR 0x22#8 (polyField d) a 0#4 deg
  | .pLd d n => formR 0x23#8 (polyField d) 0#4 0#4 n
  | .pDeg a => formR 0x24#8 0#4 (polyField a) 0#4 0#12
  | .pIsz a => formR 0x25#8 0#4 (polyField a) 0#4 0#12
  | .pCoef d a k => formR 0x26#8 d (polyField a) 0#4 k
  | .pEval d a b => formR 0x27#8 d (polyField a) b 0#12
  | .pAdd d a b => formR 0x28#8 (polyField d) (polyField a) (polyField b) 0#12
  | .pMul d a b => formR 0x29#8 (polyField d) (polyField a) (polyField b) 0#12
  | .pMuls d a b => formR 0x2A#8 (polyField d) (polyField a) b 0#12
  | .pMulm d a b deg => formR 0x2B#8 (polyField d) (polyField a) b deg
  | .pDiv q r a b => formR 0x2C#8 (polyField q) (polyField a) (polyField b) (r.setWidth 12)
  | .tQq => formR 0x40#8 0#4 0#4 0#4 0#12
  | .tMap n => formR 0x41#8 0#4 0#4 0#4 n
  | .sNudge n => formR 0x50#8 0#4 0#4 0#4 n
  | .sGrid dim => formR 0x51#8 0#4 0#4 0#4 dim
  | .sQuad dim => formR 0x52#8 0#4 0#4 0#4 dim
  | .mInit dim => formR 0x60#8 0#4 0#4 0#4 dim
  | .mSet x y => formX 0x61#8 x y
  | .mGet x y => formX 0x62#8 x y
  | .dNew => formR 0x70#8 0#4 0#4 0#4 0#12
  | .dRdbit x y => formX 0x71#8 x y
  | .dFmt => formR 0x72#8 0#4 0#4 0#4 0#12
  | .dVer => formR 0x73#8 0#4 0#4 0#4 0#12
  | .dUnmask m => formR 0x74#8 0#4 0#4 0#4 (m.setWidth 12)
  | .dCw => formR 0x75#8 0#4 0#4 0#4 0#12

/-- The command the decoder reads from an opcode-table row's bits: `w` is cut to `nbits` bits and every bit above is 0. Every command is one 32-bit word (R55), written whole to CMD, so there is no byte order to lay out (R42). -/
def decodeTableWord (nbits w : Nat) : Option Instr :=
  (decode (BitVec.ofNat 32 (w % 2 ^ nbits))).toOption

end Sys2Proof
end

