-- ==== Sys2Proof/Config.lean ====
section
/-! DEFINITION. What an implementation fixes: the parameters of 00_scope.md R5 (the sizes as constants, with the one value that 93_implementation_defined.md gives them; FIELD_POLY, the tables and ID_VALUE as a `Configuration`), and the FREE VALUES of the model (constants with no body: the spec leaves the value open, "any value", and no proof can see one). -/

namespace Sys2Proof.Config

/-- NE, the number of element registers (R5). -/
abbrev ne : Nat := 16
/-- NP, the number of polynomial registers (R5). -/
abbrev np : Nat := 8
/-- PMAX, the maximum coefficient count of a polynomial (R5). -/
abbrev pmax : Nat := 512
/-- PTMAX, the number of points of the point buffer (R5). -/
abbrev ptmax : Nat := 256
/-- DIM_MIN, the smallest legal matrix dimension (R5). -/
abbrev dimMin : Nat := 21
/-- DIM_MAX, the largest legal matrix dimension (R5). -/
abbrev dimMax : Nat := 177
/-- VMAX, the highest version (R5). -/
abbrev vmax : Nat := 40
/-- IMG_MAX_W, the maximum image width (R5). -/
abbrev imgMaxW : Nat := 2048
/-- IMG_MAX_H, the maximum image height (R5). -/
abbrev imgMaxH : Nat := 2048
/-- CWMAX, the codeword buffer's capacity in bytes (R5). -/
abbrev cwmax : Nat := 3706
/-- ID_VALUE's default, the constant that the ID register reads (R5, R30). -/
abbrev idValue : Word := 0x4A515207#32

/-! Free values. The first argument is the number of the draw (`State.draws` when it is taken), so that two draws are unrelated: "a free draw at each reset", "a free draw for each read" (93_implementation_defined.md). -/

/-- What a host read returns while BUSY = 1 at an address other than ID, CTRL and STATUS: "any 32-bit value, with no law" (R41). -/
opaque busyRead : Nat → Word
/-- The value of E[k] after a reset (R37: unspecified). -/
opaque resetElement : Nat → Fin 16 → Byte
/-- The contents of P[k] after a reset (R37: unspecified). -/
opaque resetPoly : Nat → Fin 8 → Poly
/-- The value of T[k] after a reset (R37: unspecified). -/
opaque resetTransform : Nat → Fin 9 → F64
/-- The value of Q[k] after a reset (R37: unspecified). -/
opaque resetQuad : Nat → Fin 16 → F64
/-- The byte of PT, LB, CW or PIX storage at a host byte address after a reset (R37: unspecified). -/
opaque resetByte : Nat → Nat → Byte
/-- The 177 × 177 module bits of BM after a reset (R37: unspecified). -/
opaque resetModules : Nat → BitVec 31329
/-- The contents of CMDLATCH after a reset (R37: unspecified, not read while BUSY = 0). -/
opaque resetLatch : Nat → Word

end Sys2Proof.Config

namespace Sys2Proof

/-- A configuration: what a block takes for FIELD_POLY, the tables and ID_VALUE (R5), "fixed when the block is built" (92_eei_decisions.md D8). It is an argument of the model and no part of State (R29). The default, which this hardware takes, is `standard` in Sys2Proof/Machine/Tables.lean; the constraints of R5 are `LegalConfiguration` in Sys2Proof/Safety.lean. -/
structure Configuration where
  /-- FIELD_POLY, the reduction polynomial of GF(2⁸), bit k the coefficient of x^k (R5, R70). -/
  fieldPoly : BitVec 9
  /-- FORMAT_DECODE: a 15-bit word to the datum {ecBits, maskId}, or fail (R5, R134). -/
  formatDecode : BitVec 15 → Option (BitVec 5)
  /-- VERSION_DECODE: an 18-bit word to a version, or fail (R5, R136). -/
  versionDecode : BitVec 18 → Option Nat
  /-- TOTAL_CODEWORDS(v) (R5, R141). -/
  totalCodewords : Nat → Nat
  /-- `(x, y) ∈ FUNCTION_PATTERN(v)`, of v, x and y (R5, R140). -/
  functionModule : Nat → Nat → Nat → Bool
  /-- MASK(m, i, j), i the row and j the column (R5, R138). -/
  mask : BitVec 3 → Nat → Nat → Bool
  /-- ID_VALUE, what the ID register reads (R5, R30). -/
  idValue : Word

end Sys2Proof
end

