-- ==== Sys2Proof/Machine/State.lean ====
section
/-! DEFINITION. The state of the machine: every piece of state of 10_state.md (R14–R37), the port's signals (20_memory.md R39), and the model's own fields (inputs still to come, free draws taken); the reasons a step can stop; the machine after reset. -/

namespace Sys2Proof.Machine

/-- The nine coefficients of the transform registers T[0..8], in their order a11, a21, a31, a12, a22, a32, a13, a23, a33 (R20), each a binary64 encoding. -/
structure Transform where
  a11 : F64
  a21 : F64
  a31 : F64
  a12 : F64
  a22 : F64
  a32 : F64
  a13 : F64
  a23 : F64
  a33 : F64
deriving DecidableEq, Repr

/-- The byte storage behind the windows without valid bits: PT (R22), LB (R23), CW (R28) and PIX (R25), keyed by host byte address. `cells` lists the bytes that differ from what an unlisted address reads as, addresses strictly rising; `epoch` is 0 at power-on and afterwards names the reset whose drawn bytes unlisted addresses show (`Memory.unlisted`, log entry 4). -/
structure Memory where
  epoch : Nat
  cells : List Host.Cell
deriving DecidableEq, Repr

/-- The 177 × 177 module bits of BM (R26): module (x, y) is bit 177·y + x. -/
structure BitMatrix where
  bits : BitVec 31329
deriving DecidableEq, Repr

/-- The error kinds of R143. -/
inductive ErrKind where
  /-- 0x01, raised by M.INIT, S.GRID, S.QUAD (R109). -/
  | structural
  /-- 0x02, raised by D.FMT, D.CW (R123). -/
  | formatDecode
  /-- 0x03, raised by D.VER, D.CW (R125). -/
  | versionDecode
  /-- 0x04, raised by D.CW (R133). -/
  | codewordCount
  /-- 0x05, raised by T.QQ, T.MAP, S.NUDGE, S.GRID, S.QUAD. -/
  | geometry
  /-- 0x06, reserved and never raised (R86). -/
  | fieldMismatch
  /-- 0x07, raised by GF.INV, P.MONO, P.MULM, P.DIV. -/
  | arithmetic
  /-- 0x08, raised by a word that is no command (R59). -/
  | illegalCommand
  /-- 0x09, raised by a command that reads an operand with no valid value. -/
  | uninitOperand
  /-- 0x0A, raised by a command whose argument is out of its range. -/
  | argument
  /-- 0x0B, raised by a polynomial command whose result exceeds PMAX (R85). -/
  | capacity
deriving DecidableEq, Repr

/-- What `raise K(info0, info1)` carries (R144). -/
structure CmdError where
  kind : ErrKind
  info0 : Word
  info1 : Word
deriving DecidableEq, Repr

/-- What happens next outside the block's own progress, in the one order the interconnect gives (R50). -/
inductive Input where
  /-- A host read of a word address (R38, R40). -/
  | read (waddr : BitVec 19)
  /-- A host write of a word address (R38, R40). -/
  | write (waddr : BitVec 19) (wdata : Word)
  /-- The level of the `rst` input from here on (R39, R158). -/
  | rst (level : Bool)
  /-- The block takes its step here, if it is enabled (R54). -/
  | blockTurn
deriving DecidableEq, Repr

/-- The state of one instance of JSQR-CORE. -/
structure State where
  /-- E[0..15] (R16). -/
  e : Vector Byte Config.ne
  /-- EV: bit k is the valid bit of E[k] (R16). -/
  ev : BitVec Config.ne
  /-- P[0..7] (R17). -/
  p : Vector Poly Config.np
  /-- PV: bit k is the valid bit of P[k] (R17). -/
  pv : BitVec Config.np
  /-- T[0..8] (R20). -/
  t : Transform
  /-- TV, the valid bit of T (R20). -/
  tv : Bool
  /-- Q[0..15] (R21). -/
  q : Vector F64 16
  /-- PT, LB, CW and PIX (R22, R23, R28, R25). -/
  mem : Memory
  /-- BM (R26). -/
  bm : BitMatrix
  /-- BM_DIM: 0 or the current dimension (R26). -/
  bmDim : Word
  /-- FMT (R27). -/
  fmt : Word
  /-- VER (R27). -/
  ver : Word
  /-- CW_COUNT (R28). -/
  cwCount : Word
  /-- RES (R18). -/
  res : Word
  /-- ACC (R19). -/
  acc : Word
  /-- IMG_W[11:0] (R24). -/
  imgW : BitVec 12
  /-- IMG_H[11:0] (R24). -/
  imgH : BitVec 12
  /-- CTRL.DONE_IE (R31). -/
  doneIe : Bool
  /-- CTRL.ERR_IE (R31). -/
  errIe : Bool
  /-- STATUS.BUSY (R32). -/
  busy : Bool
  /-- STATUS.DONE (R32). -/
  done : Bool
  /-- STATUS.ERR (R32). -/
  err : Bool
  /-- STATUS.DROP (R32). -/
  drop : Bool
  /-- STATUS.ERRCODE (R32, R143). -/
  errCode : Byte
  /-- ERRCMD (R33). -/
  errCmd : Word
  /-- ERRINFO0 (R33). -/
  errInfo0 : Word
  /-- ERRINFO1 (R33). -/
  errInfo1 : Word
  /-- CMDLATCH (R34). -/
  cmdLatch : Word
  /-- The level of the `rst` input (R39, R158). -/
  rst : Bool
  /-- The port's read data: what the last host read returned (R38; the model's own latch of it, log entry 7). -/
  rdata : Word
  /-- The model's own: the inputs still to come, first one first (log entry 1). -/
  inputs : List Input
  /-- The model's own: how many free draws have been taken (log entry 5). -/
  draws : Nat
deriving DecidableEq, Repr

/-- Why the machine stops with a fault: never. An error ends a COMMAND with a record the host reads (R144) and the block goes on; a bus transfer never faults (R40). Nothing raises this (safe). -/
inductive Fault where
deriving DecidableEq, Repr

/-- Why the machine refuses an instruction. -/
inductive Refusal where
  /-- Raised by an arm of `exec` whose command has no meaning yet (safe). No arm does. -/
  | notModelled (mnemonic : String)
deriving DecidableEq, Repr

/-- The all-zero transform, which is also what `T` holds at power-on (log entry 3). -/
def Transform.zero : Transform := ⟨0#64, 0#64, 0#64, 0#64, 0#64, 0#64, 0#64, 0#64, 0#64⟩

/-- The machine right after reset (R37). Storage that R37 leaves unspecified holds 0 (polynomials the zero polynomial): a DESIGN CHOICE, log entries 3 and 4. -/
def State.reset : State where
  e := Vector.replicate 16 0#8
  ev := 0#16
  p := Vector.replicate 8 [0#8]
  pv := 0#8
  t := Transform.zero
  tv := false
  q := Vector.replicate 16 0#64
  mem := ⟨0, []⟩
  bm := ⟨0#31329⟩
  bmDim := 0#32
  fmt := 0#32
  ver := 0#32
  cwCount := 0#32
  res := 0#32
  acc := 0#32
  imgW := 0#12
  imgH := 0#12
  doneIe := false
  errIe := false
  busy := false
  done := false
  err := false
  drop := false
  errCode := 0#8
  errCmd := 0#32
  errInfo0 := 0#32
  errInfo1 := 0#32
  cmdLatch := 0#32
  rst := false
  rdata := 0#32
  inputs := []
  draws := 0

end Sys2Proof.Machine
end

