-- ==== Sys2Proof/Machine/Ops.lean ====
section
/-! DEFINITION. The named operations over the state: storage bytes, the element and polynomial registers, the bit matrix, raising and clearing an error, completing a command, and reset. -/

namespace Sys2Proof.Machine

/-! ## Storage bytes (PT, LB, CW, PIX) -/

/-- What a byte of storage that nothing has written since the last reset reads as: 0 after power-on (DESIGN CHOICE, log entry 4), and a free value after any later reset (R37, R158, R159). The ONE definition of it. -/
def Memory.unlisted (m : Memory) (a : Nat) : Byte :=
  if m.epoch = 0 then 0#8 else Config.resetByte m.epoch a

/-- The byte listed for an address, if one is. -/
def lookupCell (a : Nat) : List Host.Cell → Option Byte
  | [] => none
  | c :: cs => if c.1 = a then some c.2 else lookupCell a cs

/-- The byte of storage at a host byte address. -/
def Memory.read (m : Memory) (a : Nat) : Byte :=
  (lookupCell a m.cells).getD (m.unlisted a)

/-- Cells with `b` at `a`, in rising order, `a` left out when `b` is what an unlisted `a` reads as. -/
def insertCell (unlisted : Byte) (a : Nat) (b : Byte) : List Host.Cell → List Host.Cell
  | [] => if b = unlisted then [] else [(a, b)]
  | c :: cs =>
    if a < c.1 then (if b = unlisted then c :: cs else (a, b) :: c :: cs)
    else if a = c.1 then (if b = unlisted then cs else (a, b) :: cs)
    else c :: insertCell unlisted a b cs

/-- Writes one byte of storage, keeping the canonical form. -/
def Memory.write (m : Memory) (a : Nat) (b : Byte) : Memory :=
  { m with cells := insertCell (m.unlisted a) a b m.cells }

/-- The canonical form: addresses strictly rising, no listed byte equal to what the unlisted address reads as. -/
abbrev Memory.wf (m : Memory) : Prop :=
  m.cells.Pairwise (fun c d => c.1 < d.1) ∧ ∀ c ∈ m.cells, c.2 ≠ m.unlisted c.1

/-- Writes consecutive bytes from address `a` up. -/
def Memory.writeBytes (m : Memory) (a : Nat) : List Byte → Memory
  | [] => m
  | b :: bs => (m.write a b).writeBytes (a + 1) bs

/-- A word's bytes, least significant first (R42: little-endian). -/
def wordBytes (v : Word) : List Byte :=
  [v.extractLsb' 0 8, v.extractLsb' 8 8, v.extractLsb' 16 8, v.extractLsb' 24 8]

/-- The word stored little-endian at `a` (R42). -/
def Memory.readWord (m : Memory) (a : Nat) : Word :=
  m.read (a + 3) ++ m.read (a + 2) ++ m.read (a + 1) ++ m.read a

/-- Writes a word little-endian at `a` (R42). -/
def Memory.writeWord (m : Memory) (a : Nat) (v : Word) : Memory :=
  m.writeBytes a (wordBytes v)

/-- The low (false) or high (true) word of a binary64 encoding (R42). -/
def halfOf (v : F64) (hi : Bool) : Word := if hi then v.extractLsb' 32 32 else v.extractLsb' 0 32

/-- A binary64 encoding with one half replaced: the other 32 bits stay (R42, R164). -/
def withHalf (v : F64) (hi : Bool) (w : Word) : F64 :=
  if hi then w ++ v.extractLsb' 0 32 else v.extractLsb' 32 32 ++ w

/-- The binary64 encoding stored at `a`: low word at `a`, high word at `a + 4` (R42). -/
def Memory.readF64 (m : Memory) (a : Nat) : F64 := m.readWord (a + 4) ++ m.readWord a

/-- Stores a binary64 encoding at `a` (R42). -/
def Memory.writeF64 (m : Memory) (a : Nat) (v : F64) : Memory :=
  (m.writeWord a (halfOf v false)).writeWord (a + 4) (halfOf v true)

/-- The host byte address of PT[k] (R43). -/
def ptAddr (k : Nat) : Nat := 0x1000 + 8 * k
/-- The host byte address of LB[k] (R43). -/
def lbAddr (k : Nat) : Nat := 0x2000 + 4 * k
/-- The host byte address of CW[n]: byte n of the codeword window (R42, R47). -/
def cwAddr (n : Nat) : Nat := 0x10000 + n
/-- The host byte address of the byte that holds PIX[8·a .. 8·a+7] (R48). -/
def pixAddr (a : Nat) : Nat := 0x100000 + a

/-- PT[k] (R22). -/
def State.pt (s : State) (k : Nat) : F64 := s.mem.readF64 (ptAddr k)
/-- LB[k] (R23). -/
def State.lb (s : State) (k : Nat) : Byte := s.mem.read (lbAddr k)
/-- CW[n] (R28). -/
def State.cw (s : State) (n : Nat) : Byte := s.mem.read (cwAddr n)
/-- PIX[k] (R25): bit k mod 8 of its byte, lower pixel index in the lower bit (R42, R48). -/
def State.pix (s : State) (k : Nat) : Bool := (s.mem.read (pixAddr (k / 8))).getLsbD (k % 8)

/-- Stores values in PT[k], PT[k+1], … (R22). -/
def writePoints (m : Memory) (k : Nat) : List F64 → Memory
  | [] => m
  | v :: vs => writePoints (m.writeF64 (ptAddr k) v) (k + 1) vs

/-! ## Raising, clearing, completing (60_exceptions.md) -/

/-- The codes of R143. -/
def ErrKind.code : ErrKind → Byte
  | .structural => 0x01#8
  | .formatDecode => 0x02#8
  | .versionDecode => 0x03#8
  | .codewordCount => 0x04#8
  | .geometry => 0x05#8
  | .fieldMismatch => 0x06#8
  | .arithmetic => 0x07#8
  | .illegalCommand => 0x08#8
  | .uninitOperand => 0x09#8
  | .argument => 0x0A#8
  | .capacity => 0x0B#8

/-- `raise K(info0, info1)` with a number as each info (R144). -/
def err (k : ErrKind) (info0 : Nat := 0) (info1 : Nat := 0) : CmdError :=
  ⟨k, BitVec.ofNat 32 info0, BitVec.ofNat 32 info1⟩

/-- Taking an error, the block's "trap entry" (R144): nothing of the command but the error record, BUSY and DONE. -/
def raise (e : CmdError) (s : State) : State :=
  { s with err := true, errCode := e.kind.code, errCmd := s.cmdLatch, errInfo0 := e.info0, errInfo1 := e.info1, busy := false, done := true }

/-- Clearing an error, the block's "trap return" (R147). -/
def clearError (s : State) : State :=
  { s with err := false, errCode := 0#8, errCmd := 0#32, errInfo0 := 0#32, errInfo1 := 0#32, drop := false }

/-- Completion of a command (R54): BUSY ← 0, DONE ← 1. -/
def complete (s : State) : State := { s with busy := false, done := true }

/-- The end of the block step (R54): every write of the command at once, or the error record alone. -/
def finish (s : State) (r : Except CmdError State) : Host.Outcome State Fault Refusal :=
  match r with
  | .ok t => .next (complete t)
  | .error e => .next (raise e s)

/-- `if bad then raise e` (R144). -/
def failIf (bad : Bool) (e : CmdError) : Except CmdError Unit :=
  if bad then .error e else .ok ()

/-! ## Registers -/

/-- UninitOperand(class << 8 | index) (R143). -/
def uninit (cls idx : Nat) : CmdError := err .uninitOperand (256 * cls + idx)

/-- A command's read of E[r]: UninitOperand class 1 while EV[r] = 0 (R16). -/
def readE (s : State) (r : EReg) : Except CmdError Byte :=
  if s.ev.getLsbD r.toNat then .ok (s.e[r.toNat]'r.isLt) else .error (uninit 1 r.toNat)

/-- `E[r] <- v; EV[r] <- 1` (R16). -/
def writeE (s : State) (r : EReg) (v : Byte) : State :=
  { s with e := s.e.set r.toNat v r.isLt, ev := s.ev ||| BitVec.twoPow 16 r.toNat }

/-- A command's read of P[r]: UninitOperand class 2 while PV[r] = 0 (R17). -/
def readP (s : State) (r : PReg) : Except CmdError Poly :=
  if s.pv.getLsbD r.toNat then .ok (s.p[r.toNat]'r.isLt) else .error (uninit 2 r.toNat)

/-- `P[r] <- p; PV[r] <- 1`, the whole register at once (R17). -/
def writeP (s : State) (r : PReg) (v : Poly) : State :=
  { s with p := s.p.set r.toNat v r.isLt, pv := s.pv ||| BitVec.twoPow 8 r.toNat }

/-- A command's read of T: UninitOperand class 3 while TV = 0 (R20, R143). -/
def readT (s : State) : Except CmdError Transform :=
  if s.tv then .ok s.t else .error (uninit 3 0)

/-- `T[0..8] <- t; TV <- 1` (R20). -/
def writeT (s : State) (t : Transform) : State := { s with t := t, tv := true }

/-- T[k] in the order of R20. -/
def Transform.coefficient (t : Transform) (k : Nat) : F64 :=
  match k with
  | 0 => t.a11
  | 1 => t.a21
  | 2 => t.a31
  | 3 => t.a12
  | 4 => t.a22
  | 5 => t.a32
  | 6 => t.a13
  | 7 => t.a23
  | _ => t.a33

/-! ## The bit matrix -/

/-- A row of module bits: bit x is `f x` for x < n. -/
def rowOf (f : Nat → Bool) : Nat → BitVec 177
  | 0 => 0#177
  | n + 1 => if f n then rowOf f n ||| BitVec.twoPow 177 n else rowOf f n

/-- BM(x, y) (R12, R26); false outside the 177 × 177 array. -/
def BitMatrix.get (m : BitMatrix) (x y : Nat) : Bool :=
  decide (x < 177) && m.bits.getLsbD (177 * y + x)

/-- The 177 module bits of row y, module x at bit x. -/
def BitMatrix.row (m : BitMatrix) (y : Nat) : BitVec 177 := m.bits.extractLsb' (177 * y) 177

/-- The matrix whose rows 0 .. n−1 are `g` and whose other modules are 0. -/
def matrixOf (g : Nat → BitVec 177) : Nat → BitMatrix
  | 0 => ⟨0#31329⟩
  | n + 1 => ⟨(matrixOf g n).bits ||| ((g n).setWidth 31329 <<< (177 * n))⟩

/-- Exclusive or, module by module. -/
def BitMatrix.xor (m k : BitMatrix) : BitMatrix := ⟨m.bits ^^^ k.bits⟩

/-- `BM(x, y) <- 1` (R118). -/
def BitMatrix.setOne (m : BitMatrix) (x y : Nat) : BitMatrix :=
  if x < 177 then ⟨m.bits ||| BitVec.twoPow 31329 (177 * y + x)⟩ else m

/-- Row y with the 32 modules from 32·w on replaced by the bits of v, those past module 176 ignored (R46). -/
def rowWithWord (row : BitVec 177) (w : Nat) (v : Word) : BitVec 177 :=
  (row &&& ~~~(0xFFFFFFFF#177 <<< (32 * w))) ||| (v.setWidth 177 <<< (32 * w))

/-- The matrix with row y replaced. -/
def BitMatrix.withRow (m : BitMatrix) (y : Nat) (r : BitVec 177) : BitMatrix :=
  ⟨m.bits ^^^ ((m.row y ^^^ r).setWidth 31329 <<< (177 * y))⟩

/-- A command that needs a matrix: UninitOperand class 4 while BM_DIM = 0 (R26, R143). Gives d = BM_DIM. -/
def needMatrix (s : State) : Except CmdError Nat :=
  if s.bmDim = 0#32 then .error (uninit 4 0) else .ok s.bmDim.toNat

/-- Creating a matrix (R113): BM, BM_DIM, and the memos cleared. -/
def newMatrix (s : State) (m : BitMatrix) (dim : Nat) : State :=
  { s with bm := m, bmDim := BitVec.ofNat 32 dim, fmt := 0#32, ver := 0#32 }

/-! ## Reset and fetch -/

/-- The table of R37 with a fresh draw for every unspecified value (R158, R159). The inputs still to come, the port's read data and the `rst` level are outside the block and stay. -/
def resetBlock (s : State) : State :=
  { State.reset with
    e := Vector.ofFn (Config.resetElement s.draws)
    p := Vector.ofFn (Config.resetPoly s.draws)
    t :=
      ⟨Config.resetTransform s.draws 0, Config.resetTransform s.draws 1, Config.resetTransform s.draws 2,
       Config.resetTransform s.draws 3, Config.resetTransform s.draws 4, Config.resetTransform s.draws 5,
       Config.resetTransform s.draws 6, Config.resetTransform s.draws 7, Config.resetTransform s.draws 8⟩
    q := Vector.ofFn (Config.resetQuad s.draws)
    mem := ⟨s.draws + 1, []⟩
    bm := ⟨Config.resetModules s.draws⟩
    cmdLatch := Config.resetLatch s.draws
    rst := s.rst
    rdata := s.rdata
    inputs := s.inputs
    draws := s.draws + 1 }

/-- The command word of the command in progress, read once when it executes (R53). -/
def fetchWord (s : State) : Word := s.cmdLatch

end Sys2Proof.Machine
end

