-- ==== Sys2Proof/Machine/Control.lean ====
section
/-! DEFINITION. NOP (40_control.md R64) and the execution of a word that is no command (30_encoding.md R59). -/

namespace Sys2Proof.Machine

/-- NOP (R64): no state is read or written but the completion. -/
def execNop (s : State) : Host.Outcome State Fault Refusal :=
  finish s (.ok s)

/-- A word that is no command raises IllegalCommand with both infos 0 (R59, R143). -/
def execIllegal (s : State) : Host.Outcome State Fault Refusal :=
  finish s (.error (err .illegalCommand))

end Sys2Proof.Machine
end

