-- ==== Sys2Proof/Machine/Flags.lean ====
section
/-! DEFINITION. The words a host reads from the status and control registers, and the fields of FMT and VER (10_state.md R27, R31, R32, R35; 60_exceptions.md R149). -/

namespace Sys2Proof.Machine

/-- The level of the irq output (R149). -/
def State.irq (s : State) : Bool := (s.done && s.doneIe) || (s.err && s.errIe)

/-- STATUS (R32). -/
def State.status (s : State) : Word :=
  0#16 ++ s.errCode ++ 0#3 ++ BitVec.ofBool s.irq ++ BitVec.ofBool s.drop ++ BitVec.ofBool s.err ++
    BitVec.ofBool s.done ++ BitVec.ofBool s.busy

/-- CTRL as read: the enables; the write-1 actions and the reserved bits read 0 (R31). -/
def State.ctrl (s : State) : Word := 0#30 ++ BitVec.ofBool s.errIe ++ BitVec.ofBool s.doneIe

/-- VALID (R35). -/
def State.valid (s : State) : Word :=
  0#6 ++ BitVec.ofBool (s.bmDim != 0#32) ++ BitVec.ofBool s.tv ++ s.pv ++ s.ev

/-- FV, FMT bit 31 (R27). -/
def State.fv (s : State) : Bool := s.fmt.getLsbD 31
/-- MASKID, FMT bits [2:0] (R27). -/
def State.maskId (s : State) : BitVec 3 := s.fmt.extractLsb' 0 3
/-- ECBITS, FMT bits [4:3] (R27, R135). -/
def State.ecBits (s : State) : BitVec 2 := s.fmt.extractLsb' 3 2
/-- VV, VER bit 31 (R27). -/
def State.vv (s : State) : Bool := s.ver.getLsbD 31
/-- VERSION, VER bits [5:0] (R27). -/
def State.version (s : State) : Nat := (s.ver.extractLsb' 0 6).toNat

/-- `(1 << 31) | r` for a format datum (R123). -/
def fmtWord (r : BitVec 5) : Word := 1#1 ++ 0#26 ++ r
/-- `(1 << 31) | v` for a version (R125). -/
def verWord (v : Nat) : Word := 1#1 ++ 0#25 ++ BitVec.ofNat 6 v

end Sys2Proof.Machine
end

