-- ==== Sys2Proof/Machine/Operands.lean ====
section
/-! DEFINITION. The readings of the immediate fields (30_encoding.md R57) and the shared argument checks of 43_geometry.md and 44_sampler.md. -/

namespace Sys2Proof.Machine

/-- `simm12`: the field as two's complement, −2048..2047 (R8, R57). -/
def simm12 (imm : BitVec 12) : Int := imm.toInt

/-- `uimm12`: the field unsigned, 0..4095 (R57). -/
def uimm12 (imm : BitVec 12) : Nat := imm.toNat

/-- `x`, `y` of format X: the field unsigned, 0..255 (R57). -/
def coordinate (c : Byte) : Nat := c.toNat

/-- `dimOK(dim)` (R109). -/
def dimOK (dim : Nat) : Bool := decide (Config.dimMin ≤ dim) && decide (dim ≤ Config.dimMax) && decide (dim % 4 = 1)

/-- `imgOK()` (R110). -/
def imgOK (s : State) : Bool :=
  decide (1 ≤ s.imgW.toNat) && decide (s.imgW.toNat ≤ Config.imgMaxW) &&
  decide (1 ≤ s.imgH.toNat) && decide (s.imgH.toNat ≤ Config.imgMaxH)

/-- `if n > PTMAX: raise ArgumentError(4)` (R108, R114). -/
def checkPointCount (n : Nat) : Except CmdError Unit := failIf (decide (Config.ptmax < n)) (err .argument 4)

/-- `if not dimOK(dim): raise StructuralError(dim)` (R109). -/
def checkDim (dim : Nat) : Except CmdError Unit := failIf (!dimOK dim) (err .structural dim)

/-- `if not imgOK(): raise ArgumentError(2)` (R110). -/
def checkImage (s : State) : Except CmdError Unit := failIf (!imgOK s) (err .argument 2)

/-- The operands of M.SET, M.GET and D.RDBIT: a matrix, then both coordinates below BM_DIM, else ArgumentError(5) (R118, R119, R129). -/
def checkModule (s : State) (x y : Nat) : Except CmdError Unit := do
  let d ← needMatrix s
  failIf (decide (d ≤ x) || decide (d ≤ y)) (err .argument 5)

end Sys2Proof.Machine
end

