-- ==== Sys2Proof/Machine/Tables.lean ====
section
/-! DEFINITION. The default contents of FIELD_POLY (41_field.md R70) and of the decoder tables (46_decoder_tables.md), and `standard`, the configuration of them that this hardware takes (00_scope.md R5). Log entry 12. -/

namespace Sys2Proof.Machine

/-- FIELD_POLY's default, x⁸ + x⁴ + x³ + x² + 1 (R70). -/
def fieldPoly : BitVec 9 := 0x11D#9

/-- How many bits of a word are 1. -/
def popcount {w : Nat} (x : BitVec w) : Nat := (List.range w).countP (fun k => x.getLsbD k)

/-- The search of R134 and R136 through a code table, in table order: an exact match wins at once; else the nearest code does, the first on a tie, if it is within distance 3. `best` is the nearest so far (none for ∞). -/
def nearestCode {w : Nat} {α : Type} (x : BitVec w) : List (BitVec w × α) → Option (Nat × α) → Option α
  | [], none => none
  | [], some (dist, a) => if dist ≤ 3 then some a else none
  | (code, a) :: rest, best =>
    if code = x then some a
    else
      let dist := popcount (x ^^^ code)
      match best with
      | none => nearestCode x rest (some (dist, a))
      | some (d, b) => nearestCode x rest (if dist < d then some (dist, a) else some (d, b))

/-- FMT_TABLE's stored codes, the code of datum k at place k (R134). -/
def fmtCodes : List (BitVec 15) :=
  [0x5412#15, 0x5125#15, 0x5E7C#15, 0x5B4B#15, 0x45F9#15, 0x40CE#15, 0x4F97#15, 0x4AA0#15,
   0x77C4#15, 0x72F3#15, 0x7DAA#15, 0x789D#15, 0x662F#15, 0x6318#15, 0x6C41#15, 0x6976#15] ++
  [0x1689#15, 0x13BE#15, 0x1CE7#15, 0x19D0#15, 0x0762#15, 0x0255#15, 0x0D0C#15, 0x083B#15,
   0x355F#15, 0x3068#15, 0x3F31#15, 0x3A06#15, 0x24B4#15, 0x2183#15, 0x2EDA#15, 0x2BED#15]

/-- FMT_TABLE: (stored code, datum) in table order (R134). -/
def fmtTable : List (BitVec 15 × BitVec 5) :=
  fmtCodes.zipIdx.map (fun c => (c.1, BitVec.ofNat 5 c.2))

/-- `FORMAT_DECODE(w)`: a lookup, and a second one with the mask 0x5412 removed (R134). -/
def formatDecode (w : BitVec 15) : Option (BitVec 5) :=
  match nearestCode w fmtTable none with
  | some r => some r
  | none => nearestCode (w ^^^ 0x5412#15) fmtTable none

/-- VER_TABLE's codes: the code of version k + 7 at place k (R136). -/
def verCodes : List (BitVec 18) :=
  [0x07C94#18, 0x085BC#18, 0x09A99#18, 0x0A4D3#18, 0x0BBF6#18, 0x0C762#18, 0x0D847#18, 0x0E60D#18,
   0x0F928#18, 0x10B78#18, 0x1145D#18, 0x12A17#18, 0x13532#18, 0x149A6#18, 0x15683#18, 0x168C9#18, 0x177EC#18] ++
  [0x18EC4#18, 0x191E1#18, 0x1AFAB#18, 0x1B08E#18, 0x1CC1A#18, 0x1D33F#18, 0x1ED75#18, 0x1F250#18,
   0x209D5#18, 0x216F0#18, 0x228BA#18, 0x2379F#18, 0x24B0B#18, 0x2542E#18, 0x26A64#18, 0x27541#18, 0x28C69#18]

/-- VER_TABLE: (code, version) in table order (R136). -/
def verTable : List (BitVec 18 × Nat) := verCodes.zipIdx.map (fun c => (c.1, c.2 + 7))

/-- `VERSION_DECODE(w)` (R136). -/
def versionDecode (w : BitVec 18) : Option Nat := nearestCode w verTable none

/-- `dimension(v) = 17 + 4·v` (R137). -/
def dimension (v : Nat) : Nat := 17 + 4 * v

/-- The provisional version of a dimension, `(d − 17) >> 2` (R137). -/
def provisionalVersion (d : Nat) : Nat := (d - 17) / 4

/-- `MASK(m, i, j)`, i the row and j the column (R138). -/
def maskBit (m : BitVec 3) (i j : Nat) : Bool :=
  match m.toNat with
  | 0 => (i + j) % 2 == 0
  | 1 => i % 2 == 0
  | 2 => j % 3 == 0
  | 3 => (i + j) % 3 == 0
  | 4 => (i / 2 + j / 3) % 2 == 0
  | 5 => i * j % 2 + i * j % 3 == 0
  | 6 => (i * j % 2 + i * j % 3) % 2 == 0
  | _ => ((i + j) % 2 + i * j % 3) % 2 == 0

/-- `ALIGN(v)` for v = 1..40 at place v − 1 (R139, R141). -/
def alignTable : List (List Nat) :=
  [[], [6, 18], [6, 22], [6, 26], [6, 30], [6, 34],
   [6, 22, 38], [6, 24, 42], [6, 26, 46], [6, 28, 50], [6, 30, 54], [6, 32, 58], [6, 34, 62]] ++
  [[6, 26, 46, 66], [6, 26, 48, 70], [6, 26, 50, 74], [6, 30, 54, 78], [6, 30, 56, 82], [6, 30, 58, 86], [6, 34, 62, 90]] ++
  [[6, 28, 50, 72, 94], [6, 26, 50, 74, 98], [6, 30, 54, 78, 102], [6, 28, 54, 80, 106], [6, 32, 58, 84, 110],
   [6, 30, 58, 86, 114], [6, 34, 62, 90, 118]] ++
  [[6, 26, 50, 74, 98, 122], [6, 30, 54, 78, 102, 126], [6, 26, 52, 78, 104, 130], [6, 30, 56, 82, 108, 134],
   [6, 34, 60, 86, 112, 138], [6, 30, 58, 86, 114, 142], [6, 34, 62, 90, 118, 146]] ++
  [[6, 30, 54, 78, 102, 126, 150], [6, 24, 50, 76, 102, 128, 154], [6, 28, 54, 80, 106, 132, 158],
   [6, 32, 58, 84, 110, 136, 162], [6, 26, 54, 82, 110, 138, 166], [6, 30, 58, 86, 114, 142, 170]]

/-- `ALIGN(v)`, the alignment-pattern centre coordinates (R139). -/
def alignCentres (v : Nat) : List Nat := alignTable.getD (v - 1) []

/-- TOTAL_CODEWORDS for v = 1..40 at place v − 1 (R141). -/
def totalTable : List Nat :=
  [26, 44, 70, 100, 134, 172, 196, 242, 292, 346, 404, 466, 532, 581, 655, 733, 815, 901, 991, 1085] ++
  [1156, 1258, 1364, 1474, 1588, 1706, 1828, 1921, 2051, 2185, 2323, 2465, 2611, 2761, 2876, 3034, 3196, 3362, 3532, 3706]

/-- `TOTAL_CODEWORDS(v)` (R141). -/
def totalCodewords (v : Nat) : Nat := totalTable.getD (v - 1) 0

/-- Whether l ≤ x < l + w. -/
def inSpan (l w x : Nat) : Bool := l.ble x && (x + 1).ble (l + w)

/-- Whether (x, y) lies in `region(l, t, w, h)` (R140). -/
def inRegion (l t w h x y : Nat) : Bool := inSpan l w x && inSpan t h y

/-- Whether (x, y) lies in one of the alignment patterns of R140, `region(c[b] − 2, c[a] − 2, 5, 5)`: every pair of centres but the three under a finder. The row is looked for first. -/
def inAlignment (v x y : Nat) : Bool :=
  let c := (alignCentres v).zipIdx
  let last := c.length - 1
  c.any (fun a => inSpan (a.1 - 2) 5 y && c.any (fun b => inSpan (b.1 - 2) 5 x &&
    !((a.2 == 0 && (b.2 == 0 || b.2 == last)) || (a.2 == last && b.2 == 0))))

/-- `(x, y) ∈ FUNCTION_PATTERN(v)` (R140). -/
def functionModule (v x y : Nat) : Bool :=
  let d := dimension v
  inRegion 0 0 9 9 x y || inRegion (d - 8) 0 8 9 x y || inRegion 0 (d - 8) 9 8 x y ||
  inRegion 6 9 1 (d - 17) x y || inRegion 9 6 (d - 17) 1 x y ||
  (decide (6 < v) && (inRegion (d - 11) 0 3 6 x y || inRegion 0 (d - 11) 6 3 x y)) ||
  inAlignment v x y

/-- The default value of every parameter, "which this hardware takes unless a configuration says otherwise" (R5). -/
def standard : Configuration where
  fieldPoly := fieldPoly
  formatDecode := formatDecode
  versionDecode := versionDecode
  totalCodewords := totalCodewords
  functionModule := functionModule
  mask := maskBit
  idValue := Config.idValue

end Sys2Proof.Machine
end

