-- ==== Sys2Proof/Machine/Decoder.lean ====
section
/-! DEFINITION. The symbol grammar decoder: D.NEW, D.RDBIT, D.FMT, D.VER, D.UNMASK, D.CW (45_decoder.md). Module positions are (x, y), column then row (R12, R120). `c` is the block's configuration, with the tables (00_scope.md R5); a `run` definition is a command under any configuration, the `exec` definition beside it that command of this hardware. -/

namespace Sys2Proof.Machine

/-- `readBit(x, y, acc)` (R121). -/
def readBit (m : BitMatrix) (acc : Word) (pos : Nat × Nat) : Word :=
  (acc <<< 1) ||| (if m.get pos.1 pos.2 then 1#32 else 0#32)

/-- A field assembled from its positions in read order, from acc = 0 (R121). -/
def readField (m : BitMatrix) (positions : List (Nat × Nat)) : Word := positions.foldl (readBit m) 0#32

/-- Format location A, top-left (R122). -/
def formatA : List (Nat × Nat) :=
  [(0, 8), (1, 8), (2, 8), (3, 8), (4, 8), (5, 8), (7, 8), (8, 8), (8, 7), (8, 5), (8, 4), (8, 3), (8, 2), (8, 1), (8, 0)]

/-- Format location B, top-right then bottom-left (R122). -/
def formatB (d : Nat) : List (Nat × Nat) :=
  [(d - 1, 8), (d - 2, 8), (d - 3, 8), (d - 4, 8), (d - 5, 8), (d - 6, 8), (d - 7, 8), (d - 8, 8),
   (8, d - 7), (8, d - 6), (8, d - 5), (8, d - 4), (8, d - 3), (8, d - 2), (8, d - 1)]

/-- Version block TR: for y = 5 down to 0, for x = d−9 down to d−11 (R124). -/
def versionTR (d : Nat) : List (Nat × Nat) :=
  [5, 4, 3, 2, 1, 0].flatMap (fun y => [(d - 9, y), (d - 10, y), (d - 11, y)])

/-- Version block BL: for x = 5 down to 0, for y = d−9 down to d−11 (R124). -/
def versionBL (d : Nat) : List (Nat × Nat) :=
  [5, 4, 3, 2, 1, 0].flatMap (fun x => [(x, d - 9), (x, d - 10), (x, d - 11)])

/-- `readFmt()` (R123): the new FMT. -/
def readFmt (c : Configuration) (s : State) (d : Nat) : Except CmdError Word :=
  if s.fv then .ok s.fmt
  else
    let bitsA := readField s.bm formatA
    match c.formatDecode (bitsA.setWidth 15) with
    | some r => .ok (fmtWord r)
    | none =>
      let bitsB := readField s.bm (formatB d)
      match c.formatDecode (bitsB.setWidth 15) with
      | some r => .ok (fmtWord r)
      | none => .error ⟨.formatDecode, bitsA, bitsB⟩

/-- A version block's decode, a failure where it names a version of another dimension (R125). -/
def blockVersion (c : Configuration) (d : Nat) (bits : Word) : Option Nat :=
  match c.versionDecode (bits.setWidth 18) with
  | some v => if dimension v = d then some v else none
  | none => none

/-- `readVer()` (R125): the new VER. -/
def readVer (c : Configuration) (s : State) (d : Nat) : Except CmdError Word :=
  if s.vv then .ok s.ver
  else if provisionalVersion d ≤ 6 then .ok (verWord (provisionalVersion d))
  else
    let bitsTR := readField s.bm (versionTR d)
    match blockVersion c d bitsTR with
    | some v => .ok (verWord v)
    | none =>
      let bitsBL := readField s.bm (versionBL d)
      match blockVersion c d bitsBL with
      | some v => .ok (verWord v)
      | none => .error ⟨.versionDecode, bitsTR, bitsBL⟩

/-- The modules of the d × d matrix that mask m flips (R126): row i, column j. -/
def maskMatrix (c : Configuration) (m : BitVec 3) (d : Nat) : BitMatrix := matrixOf (fun i => rowOf (fun j => c.mask m i j) d) d

/-- `unmask(m)` (R126). -/
def unmask (c : Configuration) (bm : BitMatrix) (m : BitVec 3) (d : Nat) : BitMatrix := bm.xor (maskMatrix c m d)

/-- The right columns of the walk's pairs, from j on (R127): column 6 is skipped. `fuel` bounds the loop; j falls by at least 2 a pass. -/
def walkColumns : Nat → Nat → List Nat
  | 0, _ => []
  | fuel + 1, j =>
    if j = 0 then []
    else
      let j := if j = 6 then 5 else j
      j :: walkColumns fuel (j - 2)

/-- The positions of one pair of columns (R127): bottom to top or top to bottom, the right column before the left. -/
def pairPositions (d : Nat) (up : Bool) (j : Nat) : List (Nat × Nat) :=
  (List.range d).flatMap (fun count =>
    let i := if up then d - 1 - count else count
    [(j, i), (j - 1, i)])

/-- Every position of the serpentine walk in read order (R127): the first pair goes up, the direction alternates. -/
def walkPositions (d : Nat) : List (Nat × Nat) :=
  (walkColumns d (d - 1)).zipIdx.flatMap (fun c => pairPositions d (c.2 % 2 == 0) c.1)

/-- Bytes from bits, most significant bit first; a last partial byte is discarded (R127). -/
def packBytes : List Bool → List Byte
  | b7 :: b6 :: b5 :: b4 :: b3 :: b2 :: b1 :: b0 :: rest =>
    (BitVec.ofBool b7 ++ BitVec.ofBool b6 ++ BitVec.ofBool b5 ++ BitVec.ofBool b4 ++
      BitVec.ofBool b3 ++ BitVec.ofBool b2 ++ BitVec.ofBool b1 ++ BitVec.ofBool b0) :: packBytes rest
  | _ => []

/-- `walk(v)` on a matrix of dimension d (R127). -/
def walk (c : Configuration) (bm : BitMatrix) (v d : Nat) : List Byte :=
  packBytes (((walkPositions d).filter (fun p => !c.functionModule v p.1 p.2)).map (fun p => bm.get p.1 p.2))

/-- D.NEW (R128). -/
def execDNew (s : State) : Host.Outcome State Fault Refusal :=
  finish s (.ok { s with fmt := 0#32, ver := 0#32, acc := 0#32 })

/-- D.RDBIT x, y (R129). -/
def execDRdbit (x y : Byte) (s : State) : Host.Outcome State Fault Refusal :=
  finish s do
    checkModule s (coordinate x) (coordinate y)
    return { s with acc := readBit s.bm s.acc (coordinate x, coordinate y) }

/-- D.FMT (R130), under any configuration. -/
def runDFmt (c : Configuration) (s : State) : Host.Outcome State Fault Refusal :=
  finish s do
    let d ← needMatrix s
    let fmt ← readFmt c s d
    return { s with fmt := fmt }

/-- D.FMT (R130). -/
def execDFmt (s : State) : Host.Outcome State Fault Refusal := runDFmt standard s

/-- D.VER (R131), under any configuration. -/
def runDVer (c : Configuration) (s : State) : Host.Outcome State Fault Refusal :=
  finish s do
    let d ← needMatrix s
    let ver ← readVer c s d
    return { s with ver := ver }

/-- D.VER (R131). -/
def execDVer (s : State) : Host.Outcome State Fault Refusal := runDVer standard s

/-- D.UNMASK m (R132), under any configuration. -/
def runDUnmask (c : Configuration) (m : BitVec 3) (s : State) : Host.Outcome State Fault Refusal :=
  finish s do
    let d ← needMatrix s
    return { s with bm := unmask c s.bm m d }

/-- D.UNMASK m (R132). -/
def execDUnmask (m : BitVec 3) (s : State) : Host.Outcome State Fault Refusal := runDUnmask standard m s

/-- D.CW (R133), under any configuration. -/
def runDCw (c : Configuration) (s : State) : Host.Outcome State Fault Refusal :=
  finish s do
    let d ← needMatrix s
    let fmt ← readFmt c s d
    let ver ← readVer c s d
    let r : State := { s with fmt := fmt, ver := ver }
    let bm := unmask c r.bm r.maskId d
    let out := walk c bm r.version d
    failIf (out.length != c.totalCodewords r.version) (err .codewordCount out.length (c.totalCodewords r.version))
    return { r with bm := bm, mem := r.mem.writeBytes (cwAddr 0) out, cwCount := BitVec.ofNat 32 out.length }

/-- D.CW (R133). -/
def execDCw (s : State) : Host.Outcome State Fault Refusal := runDCw standard s

end Sys2Proof.Machine
end

