-- ==== Sys2Proof/Machine/Field.lean ====
section
/-! DEFINITION. Field arithmetic over GF(2⁸) and the commands GF.LI, GF.ADD, GF.MUL, GF.INV (41_field.md). `f` is the parameter FIELD_POLY (00_scope.md R5); a `run` definition is a command for any value of its parameter, the `exec` definition beside it that command of this hardware. -/

namespace Sys2Proof.Machine

/-- One round of R70's loop: shift, reduce by FIELD_POLY, add a where bit k of b is set. -/
def gfRound (f : BitVec 9) (a b : Byte) (r : BitVec 9) (k : Nat) : BitVec 9 :=
  let shifted := r <<< 1
  let reduced := if shifted.getLsbD 8 then shifted ^^^ f else shifted
  if b.getLsbD k then reduced ^^^ a.setWidth 9 else reduced

/-- `a ⊗ b = mul(a, b)` (R70). -/
def gfMul (f : BitVec 9) (a b : Byte) : Byte := ([7, 6, 5, 4, 3, 2, 1, 0].foldl (gfRound f a b) 0#9).setWidth 8

/-- `inv(a)` for a ≠ 0 (R71), as a^254 = a² · a⁴ · … · a¹²⁸. -/
def gfInv (f : BitVec 9) (a : Byte) : Byte :=
  let a2 := gfMul f a a
  let a4 := gfMul f a2 a2
  let a8 := gfMul f a4 a4
  let a16 := gfMul f a8 a8
  let a32 := gfMul f a16 a16
  let a64 := gfMul f a32 a32
  let a128 := gfMul f a64 a64
  gfMul f a2 (gfMul f a4 (gfMul f a8 (gfMul f a16 (gfMul f a32 (gfMul f a64 a128)))))

/-- GF.LI Ed, imm8 (R73). -/
def execGfLi (d : EReg) (imm : Byte) (s : State) : Host.Outcome State Fault Refusal :=
  finish s (.ok (writeE s d imm))

/-- GF.ADD Ed, Ea, Eb (R74). -/
def execGfAdd (d a b : EReg) (s : State) : Host.Outcome State Fault Refusal :=
  finish s do
    let x ← readE s a
    let y ← readE s b
    return writeE s d (x ^^^ y)

/-- GF.MUL Ed, Ea, Eb (R75), for any FIELD_POLY. -/
def runGfMul (f : BitVec 9) (d a b : EReg) (s : State) : Host.Outcome State Fault Refusal :=
  finish s do
    let x ← readE s a
    let y ← readE s b
    return writeE s d (gfMul f x y)

/-- GF.MUL Ed, Ea, Eb (R75). -/
def execGfMul (d a b : EReg) (s : State) : Host.Outcome State Fault Refusal := runGfMul fieldPoly d a b s

/-- GF.INV Ed, Ea (R76), for any FIELD_POLY. -/
def runGfInv (f : BitVec 9) (d a : EReg) (s : State) : Host.Outcome State Fault Refusal :=
  finish s do
    let x ← readE s a
    failIf (x == 0#8) (err .arithmetic 1)
    return writeE s d (gfInv f x)

/-- GF.INV Ed, Ea (R76). -/
def execGfInv (d a : EReg) (s : State) : Host.Outcome State Fault Refusal := runGfInv fieldPoly d a s

end Sys2Proof.Machine
end

