-- ==== Sys2Proof/Machine/Polynomial.lean ====
section
/-! DEFINITION. Polynomial algebra and the P commands (42_polynomial.md). Coefficient lists stand highest degree first (R80). `f` is the parameter FIELD_POLY (00_scope.md R5); `run` and `exec` as in Sys2Proof/Machine/Field.lean. -/

namespace Sys2Proof.Machine

/-- The zero polynomial `[0]` (R80). -/
def pzero : Poly := [0#8]

/-- `isZero(p)`: L = 1 and c_0 = 0 (R80). -/
def isZeroP (p : Poly) : Bool := p == pzero

/-- `lead(p) = c_0` (R80). -/
def lead (p : Poly) : Byte := p.headD 0#8

/-- `canon`: leading zeros stripped down to one coefficient (R81). The empty list, which R81 does not take, gives `[0]`. -/
def canon : List Byte → Poly
  | [] => pzero
  | [c] => [c]
  | c :: c' :: cs => if c = 0#8 then canon (c' :: cs) else c :: c' :: cs

/-- `padd` of a list no longer than the other: s aligned with the low end of l (R82). -/
def addAligned (s l : Poly) : List Byte :=
  l.take (l.length - s.length) ++ List.zipWith (· ^^^ ·) s (l.drop (l.length - s.length))

/-- `padd(a, b)` (R82). -/
def padd (a b : Poly) : Poly :=
  if isZeroP a then b
  else if isZeroP b then a
  else if a.length ≤ b.length then canon (addAligned a b)
  else canon (addAligned b a)

/-- The convolution of R83's loops: entry i + j collects `mul(a_i, b_j)`; length `len(a) + len(b) − 1` for nonempty lists. -/
def convolve (f : BitVec 9) : List Byte → List Byte → List Byte
  | [], b => List.replicate (b.length - 1) 0#8
  | x :: xs, b =>
    List.zipWith (· ^^^ ·) (b.map (gfMul f x) ++ List.replicate xs.length 0#8) (0#8 :: convolve f xs b)

/-- `pmul(a, b)` (R83). -/
def pmul (f : BitVec 9) (a b : Poly) : Poly :=
  if isZeroP a || isZeroP b then pzero
  else canon (convolve f a b)

/-- `[mul(a_0, k), …, mul(a_{L−1}, k)]` (R84, R97). -/
def scale (f : BitVec 9) (a : Poly) (k : Byte) : List Byte := a.map (fun c => gfMul f c k)

/-- `pmulm(a, k, e)` (R84). -/
def pmulm (f : BitVec 9) (a : Poly) (k : Byte) (e : Nat) : Poly :=
  if k = 0#8 then pzero else canon (scale f a k ++ List.replicate e 0#8)

/-- The value at x (R94): the constant term at 0, the field sum at 1, else Horner's loop. -/
def peval (f : BitVec 9) (p : Poly) (x : Byte) : Byte :=
  if x = 0#8 then p.getLastD 0#8
  else if x = 1#8 then p.foldl (· ^^^ ·) 0#8
  else p.tail.foldl (fun r c => gfMul f x r ^^^ c) (lead p)

/-- The loop of R99: while deg(r) ≥ deg(b) and r is not zero, cancel the leading term of r. `fuel` bounds the passes; each pass shortens r or makes it zero, so length(a) passes are enough. -/
def divLoop (f : BitVec 9) (b : Poly) (il : Byte) : Nat → Poly → Poly → Poly × Poly
  | 0, q, r => (q, r)
  | fuel + 1, q, r =>
    if b.length ≤ r.length && !isZeroP r then
      let e := r.length - b.length
      let s := gfMul f (lead r) il
      divLoop f b il fuel (padd q (s :: List.replicate e 0#8)) (padd r (pmulm f b s e))
    else (q, r)

/-- Quotient and remainder of a by b (R99). -/
def pdivmod (f : BitVec 9) (a b : Poly) : Poly × Poly := divLoop f b (gfInv f (lead b)) a.length pzero a

/-- P.ZERO Pd (R87). -/
def execPZero (d : PReg) (s : State) : Host.Outcome State Fault Refusal :=
  finish s (.ok (writeP s d pzero))

/-- P.ONE Pd (R88). -/
def execPOne (d : PReg) (s : State) : Host.Outcome State Fault Refusal :=
  finish s (.ok (writeP s d [1#8]))

/-- P.MONO Pd, Ea, deg (R89). -/
def execPMono (d : PReg) (a : EReg) (deg : BitVec 12) (s : State) : Host.Outcome State Fault Refusal :=
  finish s do
    let c ← readE s a
    let e := simm12 deg
    failIf (decide (e < 0)) (err .arithmetic 2)
    if c = 0#8 then return writeP s d pzero
    failIf (decide (Config.pmax < e.toNat + 1)) (err .capacity (e.toNat + 1))
    return writeP s d (c :: List.replicate e.toNat 0#8)

/-- P.LD Pd, n (R90). -/
def execPLd (d : PReg) (n : BitVec 12) (s : State) : Host.Outcome State Fault Refusal :=
  finish s do
    let n := uimm12 n
    failIf (n == 0 || decide (Config.pmax < n)) (err .argument 1)
    return writeP s d (canon ((List.range n).map s.lb))

/-- P.DEG Pa (R91). -/
def execPDeg (a : PReg) (s : State) : Host.Outcome State Fault Refusal :=
  finish s do
    let p ← readP s a
    return { s with res := BitVec.ofNat 32 (p.length - 1) }

/-- P.ISZ Pa (R92). -/
def execPIsz (a : PReg) (s : State) : Host.Outcome State Fault Refusal :=
  finish s do
    let p ← readP s a
    return { s with res := if isZeroP p then 1#32 else 0#32 }

/-- P.COEF Ed, Pa, k (R93). -/
def execPCoef (d : EReg) (a : PReg) (k : BitVec 12) (s : State) : Host.Outcome State Fault Refusal :=
  finish s do
    let p ← readP s a
    let k := simm12 k
    failIf (decide (k < 0) || decide ((p.length : Int) - 1 < k)) (err .argument 3)
    return writeE s d (p.getD (p.length - 1 - k.toNat) 0#8)

/-- P.EVAL Ed, Pa, Eb (R94), for any FIELD_POLY. -/
def runPEval (f : BitVec 9) (d : EReg) (a : PReg) (b : EReg) (s : State) : Host.Outcome State Fault Refusal :=
  finish s do
    let p ← readP s a
    let x ← readE s b
    return writeE s d (peval f p x)

/-- P.EVAL Ed, Pa, Eb (R94). -/
def execPEval (d : EReg) (a : PReg) (b : EReg) (s : State) : Host.Outcome State Fault Refusal := runPEval fieldPoly d a b s

/-- P.ADD Pd, Pa, Pb (R95). -/
def execPAdd (d a b : PReg) (s : State) : Host.Outcome State Fault Refusal :=
  finish s do
    let x ← readP s a
    let y ← readP s b
    return writeP s d (padd x y)

/-- P.MUL Pd, Pa, Pb (R96), for any FIELD_POLY. -/
def runPMul (f : BitVec 9) (d a b : PReg) (s : State) : Host.Outcome State Fault Refusal :=
  finish s do
    let x ← readP s a
    let y ← readP s b
    let n := x.length + y.length - 1
    failIf (!isZeroP x && !isZeroP y && decide (Config.pmax < n)) (err .capacity n)
    return writeP s d (pmul f x y)

/-- P.MUL Pd, Pa, Pb (R96). -/
def execPMul (d a b : PReg) (s : State) : Host.Outcome State Fault Refusal := runPMul fieldPoly d a b s

/-- P.MULS Pd, Pa, Eb (R97), for any FIELD_POLY. -/
def runPMuls (f : BitVec 9) (d a : PReg) (b : EReg) (s : State) : Host.Outcome State Fault Refusal :=
  finish s do
    let x ← readP s a
    let k ← readE s b
    return writeP s d (if k = 0#8 then pzero else if k = 1#8 then x else canon (scale f x k))

/-- P.MULS Pd, Pa, Eb (R97). -/
def execPMuls (d a : PReg) (b : EReg) (s : State) : Host.Outcome State Fault Refusal := runPMuls fieldPoly d a b s

/-- P.MULM Pd, Pa, Eb, deg (R98), for any FIELD_POLY. -/
def runPMulm (f : BitVec 9) (d a : PReg) (b : EReg) (deg : BitVec 12) (s : State) : Host.Outcome State Fault Refusal :=
  finish s do
    let x ← readP s a
    let k ← readE s b
    let e := simm12 deg
    failIf (decide (e < 0)) (err .arithmetic 2)
    let r := pmulm f x k e.toNat
    failIf (decide (Config.pmax < r.length)) (err .capacity r.length)
    return writeP s d r

/-- P.MULM Pd, Pa, Eb, deg (R98). -/
def execPMulm (d a : PReg) (b : EReg) (deg : BitVec 12) (s : State) : Host.Outcome State Fault Refusal := runPMulm fieldPoly d a b deg s

/-- P.DIV Pq, Pr, Pa, Pb (R99), for any FIELD_POLY. One register named for both results is R59 case 4, whose words the decoder already refuses. -/
def runPDiv (f : BitVec 9) (q r a b : PReg) (s : State) : Host.Outcome State Fault Refusal :=
  finish s do
    failIf (q == r) (err .illegalCommand)
    let x ← readP s a
    let y ← readP s b
    failIf (isZeroP y) (err .arithmetic 3)
    let qr := pdivmod f x y
    return writeP (writeP s q qr.1) r qr.2

/-- P.DIV Pq, Pr, Pa, Pb (R99). -/
def execPDiv (q r a b : PReg) (s : State) : Host.Outcome State Fault Refusal := runPDiv fieldPoly q r a b s

end Sys2Proof.Machine
end

