-- ==== Sys2Proof/Machine/Binary64.lean ====
section
/-! DEFINITION. IEEE-754 binary64 arithmetic (00_scope.md R11, 43_geometry.md R100): every operation is computed exactly on mathematical values and rounded once, to nearest with ties to even; subnormals are kept. Log entries 8 and 9. -/

namespace Sys2Proof.Machine

/-- What a binary64 encoding stands for: a finite value is (−1)^neg · mant · 2^exp. -/
inductive Real64 where
  | nan
  | inf (neg : Bool)
  | fin (neg : Bool) (mant : Nat) (exp : Int)
deriving DecidableEq, Repr

/-- The value of an encoding: sign bit 63, exponent bits 62..52, fraction bits 51..0. -/
def unpack (v : F64) : Real64 :=
  let neg := v.getLsbD 63
  let ex := (v.extractLsb' 52 11).toNat
  let fr := (v.extractLsb' 0 52).toNat
  if ex = 2047 then (if fr = 0 then .inf neg else .nan)
  else if ex = 0 then .fin neg fr (-1074)
  else .fin neg (2 ^ 52 + fr) ((ex : Int) - 1075)

/-- The one NaN encoding the operations give. R100: a payload never reaches a register. -/
def nanBits : F64 := 0x7FF8000000000000#64

/-- A sign bit before a 63-bit magnitude. -/
def signed (neg : Bool) (magnitude : Nat) : F64 := BitVec.ofBool neg ++ BitVec.ofNat 63 magnitude

/-- ±∞. -/
def infBits (neg : Bool) : F64 := signed neg (2047 * 2 ^ 52)

/-- `num/den · 2^e` in units of 2^k, as a fraction of naturals. -/
def inUnits (num den : Nat) (e k : Int) : Nat × Nat :=
  if k ≤ e then (num * 2 ^ (e - k).toNat, den) else (num, den * 2 ^ (k - e).toNat)

/-- The exponent of the last place that `num/den · 2^e` keeps: at least −1074, and such that the value is below 2^53 units (and at least 2^52 units where it is not −1074). -/
def ulpExp (num den : Nat) (e : Int) : Int :=
  let k := max (-1074) ((num.log2 : Int) - (den.log2 : Int) + e - 53)
  let f := inUnits num den e k
  if f.1 / f.2 < 2 ^ 53 then k else k + 1

/-- The fraction n/d rounded to an integer, to nearest with ties to even (R100). -/
def roundEven (n d : Nat) : Nat :=
  let q := n / d
  let r := n % d
  if 2 * r < d then q else if d < 2 * r then q + 1 else q + q % 2

/-- The encoding of (−1)^neg · num/den · 2^e rounded to nearest even; overflow gives ±∞ and a value of 0 the signed zero. -/
def roundRatio (neg : Bool) (num den : Nat) (e : Int) : F64 :=
  if num = 0 then signed neg 0
  else
    let k := ulpExp num den e
    let f := inUnits num den e k
    let magnitude := (k + 1074).toNat * 2 ^ 52 + roundEven f.1 f.2
    if 2047 * 2 ^ 52 ≤ magnitude then infBits neg else signed neg magnitude

/-- `−v`: the sign bit inverted. -/
def fneg (v : F64) : F64 := v ^^^ 0x8000000000000000#64

/-- A finite value's numerator at exponent e (e at most its own exponent), with its sign. -/
def alignedInt (neg : Bool) (mant : Nat) (exp e : Int) : Int :=
  let m : Int := (mant * 2 ^ (exp - e).toNat : Nat)
  if neg then -m else m

/-- `a + b` (R100). The sum of two zeros of unlike sign, and any other exact zero sum of unlike values, is +0. -/
def fadd (a b : F64) : F64 :=
  match unpack a, unpack b with
  | .nan, _ => nanBits
  | _, .nan => nanBits
  | .inf n, .inf m => if n = m then infBits n else nanBits
  | .inf n, .fin _ _ _ => infBits n
  | .fin _ _ _, .inf m => infBits m
  | .fin n x ex, .fin m y ey =>
    let e := min ex ey
    let sum := alignedInt n x ex e + alignedInt m y ey e
    if sum = 0 then signed (n && m) 0 else roundRatio (decide (sum < 0)) sum.natAbs 1 e

/-- `a − b` (R100). -/
def fsub (a b : F64) : F64 := fadd a (fneg b)

/-- `a * b` (R100). -/
def fmul (a b : F64) : F64 :=
  match unpack a, unpack b with
  | .nan, _ => nanBits
  | _, .nan => nanBits
  | .inf n, .inf m => infBits (n != m)
  | .inf n, .fin m y _ => if y = 0 then nanBits else infBits (n != m)
  | .fin n x _, .inf m => if x = 0 then nanBits else infBits (n != m)
  | .fin n x ex, .fin m y ey => roundRatio (n != m) (x * y) 1 (ex + ey)

/-- `a / b` (R100): a division by ±0 gives ±∞, or NaN for a zero numerator. -/
def fdiv (a b : F64) : F64 :=
  match unpack a, unpack b with
  | .nan, _ => nanBits
  | _, .nan => nanBits
  | .inf _, .inf _ => nanBits
  | .inf n, .fin m _ _ => infBits (n != m)
  | .fin n _ _, .inf m => signed (n != m) 0
  | .fin n x ex, .fin m y ey =>
    if y = 0 then (if x = 0 then nanBits else infBits (n != m))
    else roundRatio (n != m) x y (ex - ey)

/-- `finite(v)`: neither an infinity nor a NaN (R11, R100). -/
def finite (v : F64) : Bool := v.extractLsb' 52 11 != 2047#11

/-- `v = 0.0`: true for +0.0 and −0.0 (R100). -/
def isZeroF (v : F64) : Bool := v.extractLsb' 0 63 == 0#63

/-- `floor(v)` of a finite v, an integer (R11); 0 where v is not finite, which no rule reads. -/
def ffloor (v : F64) : Int :=
  match unpack v with
  | .fin neg mant exp =>
    let m : Int := if neg then -(mant : Int) else mant
    if 0 ≤ exp then m * 2 ^ exp.toNat else m / 2 ^ (-exp).toNat
  | _ => 0

/-- The binary64 value of a natural number (exact below 2^53). -/
def fofNat (n : Nat) : F64 := roundRatio false n 1 0

/-- 0.0. -/
def fzero : F64 := 0#64
/-- 1.0. -/
def fone : F64 := 0x3FF0000000000000#64
/-- 0.5. -/
def fhalf : F64 := 0x3FE0000000000000#64

end Sys2Proof.Machine
end

