-- ==== Sys2Proof/Machine/Geometry.lean ====
section
/-! DEFINITION. The perspective transform and the commands T.QQ and T.MAP (43_geometry.md). Every expression is evaluated in the order the spec's pseudocode writes it (R11, R100). -/

namespace Sys2Proof.Machine

/-- A point (x, y) of binary64 coordinates. -/
abbrev Point := F64 × F64

/-- `sq2q(x0, y0, …, x3, y3)` (R101). -/
def sq2q (x0 y0 x1 y1 x2 y2 x3 y3 : F64) : Transform :=
  let dx3 := fsub (fadd (fsub x0 x1) x2) x3
  let dy3 := fsub (fadd (fsub y0 y1) y2) y3
  if isZeroF dx3 && isZeroF dy3 then
    { a11 := fsub x1 x0, a21 := fsub x2 x1, a31 := x0
      a12 := fsub y1 y0, a22 := fsub y2 y1, a32 := y0
      a13 := fzero, a23 := fzero, a33 := fone }
  else
    let dx1 := fsub x1 x2
    let dx2 := fsub x3 x2
    let dy1 := fsub y1 y2
    let dy2 := fsub y3 y2
    let den := fsub (fmul dx1 dy2) (fmul dx2 dy1)
    let a13 := fdiv (fsub (fmul dx3 dy2) (fmul dx2 dy3)) den
    let a23 := fdiv (fsub (fmul dx1 dy3) (fmul dx3 dy1)) den
    { a11 := fadd (fsub x1 x0) (fmul a13 x1), a21 := fadd (fsub x3 x0) (fmul a23 x3), a31 := x0
      a12 := fadd (fsub y1 y0) (fmul a13 y1), a22 := fadd (fsub y3 y0) (fmul a23 y3), a32 := y0
      a13 := a13, a23 := a23, a33 := fone }

/-- `adj(…)` (R102). -/
def adj (t : Transform) : Transform :=
  { a11 := fsub (fmul t.a22 t.a33) (fmul t.a23 t.a32)
    a21 := fsub (fmul t.a23 t.a31) (fmul t.a21 t.a33)
    a31 := fsub (fmul t.a21 t.a32) (fmul t.a22 t.a31)
    a12 := fsub (fmul t.a13 t.a32) (fmul t.a12 t.a33)
    a22 := fsub (fmul t.a11 t.a33) (fmul t.a13 t.a31)
    a32 := fsub (fmul t.a12 t.a31) (fmul t.a11 t.a32)
    a13 := fsub (fmul t.a12 t.a23) (fmul t.a13 t.a22)
    a23 := fsub (fmul t.a13 t.a21) (fmul t.a11 t.a23)
    a33 := fsub (fmul t.a11 t.a22) (fmul t.a12 t.a21) }

/-- `((p*u) + (q*v)) + (r*w)`, the shape of every entry of R103. -/
def dot3 (p u q v r w : F64) : F64 := fadd (fadd (fmul p u) (fmul q v)) (fmul r w)

/-- `times(a, b)`: applies b first, then a (R103). -/
def times (a b : Transform) : Transform :=
  { a11 := dot3 a.a11 b.a11 a.a21 b.a12 a.a31 b.a13
    a21 := dot3 a.a11 b.a21 a.a21 b.a22 a.a31 b.a23
    a31 := dot3 a.a11 b.a31 a.a21 b.a32 a.a31 b.a33
    a12 := dot3 a.a12 b.a11 a.a22 b.a12 a.a32 b.a13
    a22 := dot3 a.a12 b.a21 a.a22 b.a22 a.a32 b.a23
    a32 := dot3 a.a12 b.a31 a.a22 b.a32 a.a32 b.a33
    a13 := dot3 a.a13 b.a11 a.a23 b.a12 a.a33 b.a13
    a23 := dot3 a.a13 b.a21 a.a23 b.a22 a.a33 b.a23
    a33 := dot3 a.a13 b.a31 a.a23 b.a32 a.a33 b.a33 }

/-- Whether all nine coefficients are finite (R104). -/
def Transform.allFinite (t : Transform) : Bool :=
  finite t.a11 && finite t.a21 && finite t.a31 && finite t.a12 && finite t.a22 && finite t.a32 &&
  finite t.a13 && finite t.a23 && finite t.a33

/-- `GeometryError((cause << 24) | index, row)` (R143). -/
def geometryError (cause index row : Nat) : CmdError := err .geometry (cause * 2 ^ 24 + index) row

/-- `build(Q)` (R104). -/
def build (q : Vector F64 16) : Except CmdError Transform := do
  let qToS := adj (sq2q q[0] q[1] q[2] q[3] q[4] q[5] q[6] q[7])
  failIf (!qToS.allFinite) (geometryError 1 0 0)
  let sToQ := sq2q q[8] q[9] q[10] q[11] q[12] q[13] q[14] q[15]
  failIf (!sToQ.allFinite) (geometryError 1 0 0)
  let t := times sToQ qToS
  failIf (!t.allFinite) (geometryError 1 0 0)
  return t

/-- `mapPt(T, x, y)` (R105). -/
def mapPt (t : Transform) (pt : Point) : Point :=
  let den := fadd (fadd (fmul t.a13 pt.1) (fmul t.a23 pt.2)) t.a33
  (fdiv (fadd (fadd (fmul t.a11 pt.1) (fmul t.a21 pt.2)) t.a31) den,
   fdiv (fadd (fadd (fmul t.a12 pt.1) (fmul t.a22 pt.2)) t.a32) den)

/-- Whether both coordinates are finite. -/
def finitePoint (pt : Point) : Bool := finite pt.1 && finite pt.2

/-- `for p in order: if not finite: raise GeometryError((2 << 24) | p, row)` (R108, R111); `p` numbers the list's first point. -/
def checkFinite (row : Nat) : Nat → List Point → Except CmdError Unit
  | _, [] => .ok ()
  | p, pt :: pts => if finitePoint pt then checkFinite row (p + 1) pts else .error (geometryError 2 p row)

/-- The first n points of PT: point p is (PT[2p], PT[2p+1]) (R22). -/
def State.points (s : State) (n : Nat) : List Point :=
  (List.range n).map (fun p => (s.pt (2 * p), s.pt (2 * p + 1)))

/-- `PT[2p] <- X_p; PT[2p+1] <- Y_p` from point 0 up (R108, R114). -/
def storePoints (s : State) (pts : List Point) : State :=
  { s with mem := writePoints s.mem 0 (pts.flatMap (fun pt => [pt.1, pt.2])) }

/-- T.QQ (R107). -/
def execTQq (s : State) : Host.Outcome State Fault Refusal :=
  finish s do
    let t ← build s.q
    return writeT s t

/-- T.MAP n (R108). -/
def execTMap (n : BitVec 12) (s : State) : Host.Outcome State Fault Refusal :=
  finish s do
    let t ← readT s
    checkPointCount (uimm12 n)
    let mapped := (s.points (uimm12 n)).map (mapPt t)
    checkFinite 0 0 mapped
    return storePoints s mapped

end Sys2Proof.Machine
end

