-- ==== Sys2Proof/Machine/Sampler.lean ====
section
/-! DEFINITION. The grid sampler and the bit-matrix commands: S.NUDGE, S.GRID, S.QUAD, M.INIT, M.SET, M.GET (44_sampler.md). -/

namespace Sys2Proof.Machine

/-- One coordinate of `one(p)` (R111): −1 goes to 0, the image's size to its last index. Gives the new coordinate and whether it was nudged. -/
def nudgeAxis (size : Nat) (v : F64) : F64 × Bool :=
  if ffloor v = -1 then (fzero, true)
  else if ffloor v = (size : Int) then (fofNat (size - 1), true)
  else (v, false)

/-- Whether a coordinate lies outside [−1, size], by its floor (R111). -/
def outOfReach (size : Nat) (v : F64) : Bool := decide (ffloor v < -1) || decide ((size : Int) < ffloor v)

/-- `one(p)` (R111): the point after the nudge and whether it was nudged, or GeometryError sub-cause 3. -/
def nudgeOne (w h row p : Nat) (pt : Point) : Except CmdError (Point × Bool) :=
  if outOfReach w pt.1 || outOfReach h pt.2 then .error (geometryError 3 p row)
  else
    let x := nudgeAxis w pt.1
    let y := nudgeAxis h pt.2
    .ok ((x.1, y.1), x.2 || y.2)

/-- One scan of R111 along numbered points: it goes on while each point was nudged and stops behind the first that was not. -/
def nudgeScan (w h row : Nat) : List (Nat × Point) → Except CmdError (List (Nat × Point))
  | [] => .ok []
  | (p, pt) :: pts => do
    let r ← nudgeOne w h row p pt
    if r.2 then
      let rest ← nudgeScan w h row pts
      return (p, r.1) :: rest
    else return (p, r.1) :: pts

/-- `nudge(pts, row)` (R111): finiteness of every point, then the scan from the front, then the scan from the back. -/
def nudge (w h row : Nat) (pts : List Point) : Except CmdError (List Point) := do
  checkFinite row 0 pts
  let front ← nudgeScan w h row (pts.zipIdx.map (fun c => (c.2, c.1)))
  let back ← nudgeScan w h row front.reverse
  return back.reverse.map (fun c => c.2)

/-- One sample of R112: the pixel that a nudged point floors to, GeometryError sub-cause 4 outside the image. -/
def samplePixel (s : State) (y x : Nat) (pt : Point) : Except CmdError Bool :=
  let px := ffloor pt.1
  let py := ffloor pt.2
  if decide (px < 0) || decide ((s.imgW.toNat : Int) ≤ px) || decide (py < 0) || decide ((s.imgH.toNat : Int) ≤ py) then
    .error (geometryError 4 x y)
  else .ok (s.pix (px.toNat + s.imgW.toNat * py.toNat))

/-- The samples of a row's points from column x on, in order (R112). -/
def sampleRow (s : State) (y : Nat) : Nat → List Point → Except CmdError (List Bool)
  | _, [] => .ok []
  | x, pt :: pts => do
    let bit ← samplePixel s y x pt
    let rest ← sampleRow s y (x + 1) pts
    return bit :: rest

/-- The centre of cell (x, y): (x + 0.5, y + 0.5) (R112). -/
def cellCentre (x y : Nat) : Point := (fadd (fofNat x) fhalf, fadd (fofNat y) fhalf)

/-- Row y of `sample(t, dim)` (R112): map, nudge, sample. -/
def gridRow (s : State) (t : Transform) (dim y : Nat) : Except CmdError (BitVec 177) := do
  let pts ← nudge s.imgW.toNat s.imgH.toNat y ((List.range dim).map (fun x => mapPt t (cellCentre x y)))
  let bits ← sampleRow s y 0 pts
  return rowOf (fun x => bits.getD x false) dim

/-- The rows of `sample(t, dim)` from row y on, n of them, one at a time (R112). -/
def gridRows (s : State) (t : Transform) (dim : Nat) : Nat → Nat → Except CmdError (List (BitVec 177))
  | 0, _ => .ok []
  | n + 1, y => do
    let row ← gridRow s t dim y
    let rest ← gridRows s t dim n (y + 1)
    return row :: rest

/-- `sample(t, dim)` (R112). -/
def sample (s : State) (t : Transform) (dim : Nat) : Except CmdError BitMatrix := do
  let rows ← gridRows s t dim dim 0
  return matrixOf (fun y => rows.getD y 0#177) dim

/-- S.NUDGE n (R114). -/
def execSNudge (n : BitVec 12) (s : State) : Host.Outcome State Fault Refusal :=
  finish s do
    checkPointCount (uimm12 n)
    checkImage s
    let pts ← nudge s.imgW.toNat s.imgH.toNat 0 (s.points (uimm12 n))
    return storePoints s pts

/-- S.GRID dim (R115). -/
def execSGrid (dim : BitVec 12) (s : State) : Host.Outcome State Fault Refusal :=
  finish s do
    let t ← readT s
    checkDim (uimm12 dim)
    checkImage s
    let m ← sample s t (uimm12 dim)
    return newMatrix s m (uimm12 dim)

/-- S.QUAD dim (R116). -/
def execSQuad (dim : BitVec 12) (s : State) : Host.Outcome State Fault Refusal :=
  finish s do
    checkDim (uimm12 dim)
    checkImage s
    let t ← build s.q
    let m ← sample s t (uimm12 dim)
    return newMatrix (writeT s t) m (uimm12 dim)

/-- M.INIT dim (R117). -/
def execMInit (dim : BitVec 12) (s : State) : Host.Outcome State Fault Refusal :=
  finish s do
    checkDim (uimm12 dim)
    return newMatrix s ⟨0#31329⟩ (uimm12 dim)

/-- M.SET x, y (R118). -/
def execMSet (x y : Byte) (s : State) : Host.Outcome State Fault Refusal :=
  finish s do
    checkModule s (coordinate x) (coordinate y)
    return { s with bm := s.bm.setOne (coordinate x) (coordinate y) }

/-- M.GET x, y (R119). -/
def execMGet (x y : Byte) (s : State) : Host.Outcome State Fault Refusal :=
  finish s do
    checkModule s (coordinate x) (coordinate y)
    return { s with res := if s.bm.get (coordinate x) (coordinate y) then 1#32 else 0#32 }

end Sys2Proof.Machine
end

