-- ==== Sys2Proof/Machine/Dispatch.lean ====
section
/-! DEFINITION. The one dispatch: the meaning of every command (30_encoding.md R58). -/

namespace Sys2Proof.Machine

/-- `Exec` and the completion of R54, for the command in progress. -/
def exec (i : Instr) (s : State) : Host.Outcome State Fault Refusal :=
  match i with
  | .nop => Sys2Proof.Machine.execNop s
  | .gfLi d imm => Sys2Proof.Machine.execGfLi d imm s
  | .gfAdd d a b => Sys2Proof.Machine.execGfAdd d a b s
  | .gfMul d a b => Sys2Proof.Machine.execGfMul d a b s
  | .gfInv d a => Sys2Proof.Machine.execGfInv d a s
  | .pZero d => Sys2Proof.Machine.execPZero d s
  | .pOne d => Sys2Proof.Machine.execPOne d s
  | .pMono d a deg => Sys2Proof.Machine.execPMono d a deg s
  | .pLd d n => Sys2Proof.Machine.execPLd d n s
  | .pDeg a => Sys2Proof.Machine.execPDeg a s
  | .pIsz a => Sys2Proof.Machine.execPIsz a s
  | .pCoef d a k => Sys2Proof.Machine.execPCoef d a k s
  | .pEval d a b => Sys2Proof.Machine.execPEval d a b s
  | .pAdd d a b => Sys2Proof.Machine.execPAdd d a b s
  | .pMul d a b => Sys2Proof.Machine.execPMul d a b s
  | .pMuls d a b => Sys2Proof.Machine.execPMuls d a b s
  | .pMulm d a b deg => Sys2Proof.Machine.execPMulm d a b deg s
  | .pDiv q r a b => Sys2Proof.Machine.execPDiv q r a b s
  | .tQq => Sys2Proof.Machine.execTQq s
  | .tMap n => Sys2Proof.Machine.execTMap n s
  | .sNudge n => Sys2Proof.Machine.execSNudge n s
  | .sGrid dim => Sys2Proof.Machine.execSGrid dim s
  | .sQuad dim => Sys2Proof.Machine.execSQuad dim s
  | .mInit dim => Sys2Proof.Machine.execMInit dim s
  | .mSet x y => Sys2Proof.Machine.execMSet x y s
  | .mGet x y => Sys2Proof.Machine.execMGet x y s
  | .dNew => Sys2Proof.Machine.execDNew s
  | .dRdbit x y => Sys2Proof.Machine.execDRdbit x y s
  | .dFmt => Sys2Proof.Machine.execDFmt s
  | .dVer => Sys2Proof.Machine.execDVer s
  | .dUnmask m => Sys2Proof.Machine.execDUnmask m s
  | .dCw => Sys2Proof.Machine.execDCw s

end Sys2Proof.Machine
end

