-- ==== Sys2Proof/Machine/Block.lean ====
section
/-! DEFINITION. The block's own step: the command word in CMDLATCH, decoded and executed (30_encoding.md R54). -/

namespace Sys2Proof.Machine

/-- The block step (R54) where `run` is what each command does: enabled only while BUSY = 1 and the block is not held in reset (R158); otherwise nothing happens (R156). -/
def blockStepBy (run : Instr → State → Host.Outcome State Fault Refusal) (s : State) : Host.Outcome State Fault Refusal :=
  if s.rst || !s.busy then .next s
  else
    match decode (fetchWord s) with
    | .ok i => run i s
    | .error _ => execIllegal s

/-- The block step of this hardware (R54). -/
def blockStep (s : State) : Host.Outcome State Fault Refusal := blockStepBy exec s

end Sys2Proof.Machine
end

