-- ==== Sys2Proof/Machine/Bus.lean ====
section
/-! DEFINITION. The host's side: the address map, MemRead and MemWrite, the offer of a command word, the CTRL actions and the `rst` input (20_memory.md, 10_state.md R31, 30_encoding.md R54, 70_reset_and_hazards.md R158, R159). -/

namespace Sys2Proof.Machine

/-- What a word of the host address map is (R43). `hi` marks the high word of a binary64 value. -/
inductive Target where
  | id | ctrl | status | errCmd | errInfo0 | errInfo1 | cmd | res | acc | imgW | imgH | bmDim | fmt | ver | cwCount | valid
  /-- E[k] (R44). -/
  | element (k : EReg)
  /-- Half of Q[k]. -/
  | quad (k : BitVec 4) (hi : Bool)
  /-- Half of T[k]. -/
  | transform (k : Nat) (hi : Bool)
  /-- A word of PT, at its host byte address. -/
  | point (addr : Nat)
  /-- LB[k]. -/
  | load (k : Nat)
  /-- Word i of the window of P[k] (R45). -/
  | poly (k : PReg) (i : Nat)
  /-- Word w of BM row y (R46). -/
  | matrix (y w : Nat)
  /-- Codeword window word, at its host byte address (R47). -/
  | codeword (addr : Nat)
  /-- A word of PIX, at its host byte address (R48). -/
  | pixel (addr : Nat)
  | unmapped
deriving DecidableEq, Repr

/-- The registers at 0x000–0x03C (R43), by word index. -/
def registerAt (k : Nat) : Target :=
  match k with
  | 0 => .id
  | 1 => .ctrl
  | 2 => .status
  | 3 => .errCmd
  | 4 => .errInfo0
  | 5 => .errInfo1
  | 6 => .cmd
  | 7 => .res
  | 8 => .acc
  | 9 => .imgW
  | 10 => .imgH
  | 11 => .bmDim
  | 12 => .fmt
  | 13 => .ver
  | 14 => .cwCount
  | 15 => .valid
  | _ => .unmapped

/-- The host address map (R43): what the word at byte address a is. -/
def target (a : Nat) : Target :=
  if a < 0x040 then registerAt (a / 4)
  else if a < 0x100 then .unmapped
  else if a < 0x140 then .element (BitVec.ofNat 4 ((a - 0x100) / 4))
  else if a < 0x200 then .unmapped
  else if a < 0x280 then .quad (BitVec.ofNat 4 ((a - 0x200) / 8)) (a / 4 % 2 == 1)
  else if a < 0x2C8 then .transform ((a - 0x280) / 8) (a / 4 % 2 == 1)
  else if a < 0x1000 then .unmapped
  else if a < 0x2000 then .point a
  else if a < 0x2800 then .load ((a - 0x2000) / 4)
  else if a < 0x4000 then .unmapped
  else if a < 0xC000 then .poly (BitVec.ofNat 3 ((a - 0x4000) / 0x1000)) (a % 0x1000 / 4)
  else if a < 0xD098 then .matrix ((a - 0xC000) / 24) ((a - 0xC000) % 24 / 4)
  else if a < 0x10000 then .unmapped
  else if a < 0x10E7C then .codeword a
  else if a < 0x100000 then .unmapped
  else if a < 0x180000 then .pixel a
  else .unmapped

/-- The byte address of a word address: `4·waddr` (R38). -/
def byteAddr (waddr : BitVec 19) : Nat := 4 * waddr.toNat

/-- Codeword byte n as the host reads it: 0 from CW_COUNT on (R28, R47). -/
def State.cwVisible (s : State) (n : Nat) : Byte := if n < s.cwCount.toNat then s.cw n else 0#8

/-- Word i of the window of P[k] (R45). -/
def polyWindow (s : State) (k : PReg) (i : Nat) : Word :=
  if s.pv.getLsbD k.toNat then
    let p := s.p[k.toNat]'k.isLt
    if i = 0 then BitVec.ofNat 32 p.length
    else if i ≤ Config.pmax then (p.getD (i - 1) 0#8).setWidth 32
    else 0#32
  else 0#32

/-- The value a register or window gives a host read (R43–R48). -/
def readTarget (s : State) : Target → Word
  | .id => Config.idValue
  | .ctrl => s.ctrl
  | .status => s.status
  | .errCmd => s.errCmd
  | .errInfo0 => s.errInfo0
  | .errInfo1 => s.errInfo1
  | .cmd => 0#32
  | .res => s.res
  | .acc => s.acc
  | .imgW => s.imgW.setWidth 32
  | .imgH => s.imgH.setWidth 32
  | .bmDim => s.bmDim
  | .fmt => s.fmt
  | .ver => s.ver
  | .cwCount => s.cwCount
  | .valid => s.valid
  | .element k => if s.ev.getLsbD k.toNat then (s.e[k.toNat]'k.isLt).setWidth 32 else 0#32
  | .quad k hi => halfOf (s.q[k.toNat]'k.isLt) hi
  | .transform k hi => if s.tv then halfOf (s.t.coefficient k) hi else 0#32
  | .point addr => s.mem.readWord addr
  | .load k => (s.lb k).setWidth 32
  | .poly k i => polyWindow s k i
  | .matrix y w => ((s.bm.row y) >>> (32 * w)).setWidth 32
  | .codeword addr =>
    let n := addr - 0x10000
    s.cwVisible (n + 3) ++ s.cwVisible (n + 2) ++ s.cwVisible (n + 1) ++ s.cwVisible n
  | .pixel addr => s.mem.readWord addr
  | .unmapped => 0#32

/-- `MemRead(addr, 4)` outside BUSY and outside reset (R40). -/
def memRead (s : State) (addr : Nat) : Word := readTarget s (target addr)

/-- A host read (R40, R41, R158): the state after it differs in the port's read data alone, and in the count of free draws where the value is one. -/
def hostRead (waddr : BitVec 19) (s : State) : State :=
  let tgt := target (byteAddr waddr)
  if s.rst then { s with rdata := if tgt = .id then Config.idValue else 0#32 }
  else if s.busy && !(tgt == .id || tgt == .ctrl || tgt == .status) then
    { s with rdata := Config.busyRead s.draws, draws := s.draws + 1 }
  else { s with rdata := readTarget s tgt }

/-- A write of CTRL (R31): SOFT_RESET alone, or the enables and then the clear actions. -/
def writeCtrl (v : Word) (s : State) : State :=
  if v.getLsbD 31 then resetBlock s
  else
    let s := { s with doneIe := v.getLsbD 0, errIe := v.getLsbD 1 }
    let s := if v.getLsbD 8 then clearError s else s
    if v.getLsbD 9 then { s with done := false } else s

/-- The offer of a command word while BUSY = 0 (R54): dropped while an error is latched (R146), else accepted. -/
def offerCommand (w : Word) (s : State) : State :=
  if s.err then { s with drop := true } else { s with cmdLatch := w, busy := true, done := false }

/-- The write effect of a register or window while BUSY = 0 (R43–R48). -/
def writeTarget (v : Word) (s : State) : Target → State
  | .ctrl => writeCtrl v s
  | .cmd => offerCommand v s
  | .acc => { s with acc := v }
  | .imgW => { s with imgW := v.setWidth 12 }
  | .imgH => { s with imgH := v.setWidth 12 }
  | .element k => writeE s k (v.setWidth 8)
  | .quad k hi => { s with q := s.q.set k.toNat (withHalf (s.q[k.toNat]'k.isLt) hi v) k.isLt }
  | .point addr => { s with mem := s.mem.writeWord addr v }
  | .load k => { s with mem := s.mem.write (lbAddr k) (v.setWidth 8) }
  | .matrix y w => { s with bm := s.bm.withRow y (rowWithWord (s.bm.row y) w v) }
  | .pixel addr => { s with mem := s.mem.writeWord addr v }
  | .id | .status | .errCmd | .errInfo0 | .errInfo1 | .res | .bmDim | .fmt | .ver | .cwCount | .valid => s
  | .transform _ _ | .poly _ _ | .codeword _ | .unmapped => s

/-- A host write (R40, R41, R158): ignored while rst is 1; while BUSY = 1 dropped, with DROP set, but for CTRL. -/
def hostWrite (waddr : BitVec 19) (v : Word) (s : State) : State :=
  let tgt := target (byteAddr waddr)
  if s.rst then s
  else if s.busy && !(tgt == .ctrl) then { s with drop := true }
  else writeTarget v s tgt

/-- The `rst` input takes a level (R158): rising, or held, it discards everything; when it returns to 0 the state is the table of R37; a low level on a block out of reset changes nothing. -/
def driveRst (level : Bool) (s : State) : State :=
  if level || s.rst then { resetBlock s with rst := level } else s

end Sys2Proof.Machine
end

