-- ==== Sys2Proof/Machine/Step.lean ====
section
/-! DEFINITION. One step of the machine: the next input, or the block's own step (10_state.md R14, 20_memory.md R50, 30_encoding.md R54). -/

namespace Sys2Proof.Machine

/-- One step, where `block` is the block's own step and `read` a host read: the first input still to come happens; with none left the block takes its step (log entry 1). -/
def stepBy (block : State → Host.Outcome State Fault Refusal) (read : BitVec 19 → State → State) (s : State) :
    Host.Outcome State Fault Refusal :=
  match s.inputs with
  | [] => block s
  | input :: rest =>
    let s := { s with inputs := rest }
    match input with
    | .blockTurn => block s
    | .read waddr => .next (read waddr s)
    | .write waddr wdata => .next (hostWrite waddr wdata s)
    | .rst level => .next (driveRst level s)

/-- One step of this hardware. -/
def step (s : State) : Host.Outcome State Fault Refusal := stepBy blockStep hostRead s

/-- The state with a command word where the next step fetches it: latched, BUSY, out of reset, the block's turn next (log entry 2). -/
def State.withFetchWord (s : State) (nbits w : Nat) : State :=
  { s with cmdLatch := BitVec.ofNat 32 (w % 2 ^ nbits), busy := true, rst := false, inputs := .blockTurn :: s.inputs }

end Sys2Proof.Machine
end

