-- ==== Sys2Proof/Machine/Configured.lean ====
section
/-! DEFINITION. The machine under any configuration (00_scope.md R5): `exec`, a host read and `step` with the configuration as an argument. At `standard` they are the machine of Sys2Proof/Machine/Step.lean (Sys2Proof/Laws/Configured.lean). -/

namespace Sys2Proof.Machine

/-- What a command does in a block with configuration c. The commands that read no parameter are those of this hardware. -/
def execWith (c : Configuration) (i : Instr) (s : State) : Host.Outcome State Fault Refusal :=
  match i with
  | .gfMul d a b => runGfMul c.fieldPoly d a b s
  | .gfInv d a => runGfInv c.fieldPoly d a s
  | .pEval d a b => runPEval c.fieldPoly d a b s
  | .pMul d a b => runPMul c.fieldPoly d a b s
  | .pMuls d a b => runPMuls c.fieldPoly d a b s
  | .pMulm d a b deg => runPMulm c.fieldPoly d a b deg s
  | .pDiv q r a b => runPDiv c.fieldPoly q r a b s
  | .dFmt => runDFmt c s
  | .dVer => runDVer c s
  | .dUnmask m => runDUnmask c m s
  | .dCw => runDCw c s
  | .nop | .gfLi _ _ | .gfAdd _ _ _ | .pZero _ | .pOne _ | .pMono _ _ _ | .pLd _ _ | .pDeg _ | .pIsz _ | .pCoef _ _ _ | .pAdd _ _ _
  | .tQq | .tMap _ | .sNudge _ | .sGrid _ | .sQuad _ | .mInit _ | .mSet _ _ | .mGet _ _ | .dNew | .dRdbit _ _ => exec i s

/-- A host read of a block with configuration c: ID reads its ID_VALUE at any time (R30, R41, R158). -/
def hostReadWith (c : Configuration) (waddr : BitVec 19) (s : State) : State :=
  if target (byteAddr waddr) = .id then { s with rdata := c.idValue } else hostRead waddr s

/-- One step of a block with configuration c. -/
def stepWith (c : Configuration) (s : State) : Host.Outcome State Fault Refusal :=
  stepBy (blockStepBy (execWith c)) (hostReadWith c) s

/-- The block with configuration c as a machine. Reset and the host's writes read no parameter. -/
def coreWith (c : Configuration) : Host.Core :=
  { State := State, Fault := Fault, Refusal := Refusal, step := stepWith c, reset := State.reset }

end Sys2Proof.Machine
end

