-- ==== Sys2Proof/Safety.lean ====
section
/-! DEFINITION. What a legal state is, in the terms the statements use: the invariants that the rules of the spec give the registers. No run reaches a stop: `Fault` is empty and no arm of `exec` refuses. -/

namespace Sys2Proof.Machine

/-- A polynomial a valid P register may hold (R17): 1 ≤ L ≤ PMAX, and L = 1 or c_0 ≠ 0. -/
abbrev polyOK (p : Poly) : Prop := 1 ≤ p.length ∧ p.length ≤ Config.pmax ∧ (p.length = 1 ∨ lead p ≠ 0#8)

/-- The host byte addresses that hold storage: PT, LB (one byte a word), CW and PIX (R43). -/
abbrev inStorage (a : Nat) : Prop :=
  (0x1000 ≤ a ∧ a < 0x2000) ∨ (0x2000 ≤ a ∧ a < 0x2800 ∧ a % 4 = 0) ∨
  (0x10000 ≤ a ∧ a < 0x10000 + Config.cwmax) ∨ (0x100000 ≤ a ∧ a < 0x180000)

/-- The error codes that can be latched: 0x01 to 0x0B but 0x06 (R143, R86). -/
abbrev latchable (c : Byte) : Prop := 0x01 ≤ c.toNat ∧ c.toNat ≤ 0x0B ∧ c ≠ 0x06#8

/-- The invariants of the machine's registers. -/
structure State.Inv (s : State) : Prop where
  /-- Storage is in canonical form. -/
  canonical : s.mem.wf
  /-- Only bytes that exist are listed (R43). -/
  exists_ : ∀ c ∈ s.mem.cells, inStorage c.1
  /-- Every valid P register holds a canonical polynomial (R17). -/
  polys : ∀ k : PReg, s.pv.getLsbD k.toNat = true → polyOK (s.p[k.toNat]'k.isLt)
  /-- No non-finite value is ever written to T (R100). -/
  transform : s.tv = true → s.t.allFinite = true
  /-- BM_DIM is 0 or a legal dimension (R26). -/
  dim : s.bmDim = 0#32 ∨ dimOK s.bmDim.toNat = true
  /-- FMT is 0, or FV with a 5-bit datum and zeros, and then a matrix exists (R27). -/
  format : s.fmt = 0#32 ∨ (s.bmDim ≠ 0#32 ∧ ∃ r, s.fmt = fmtWord r)
  /-- VER is 0, or VV with the version of the present dimension (R27, R125). -/
  version : s.ver = 0#32 ∨ ∃ v, 1 ≤ v ∧ v ≤ Config.vmax ∧ s.ver = verWord v ∧ s.bmDim.toNat = dimension v
  /-- CW_COUNT is at most CWMAX (R28). -/
  count : s.cwCount.toNat ≤ Config.cwmax
  /-- While ERR = 0 the error record reads 0 (R32, R33). -/
  noRecord : s.err = false → s.errCode = 0#8 ∧ s.errCmd = 0#32 ∧ s.errInfo0 = 0#32 ∧ s.errInfo1 = 0#32
  /-- While ERR = 1 the code is one that a command raises (R143). -/
  record : s.err = true → latchable s.errCode
  /-- While BUSY = 1 there is no latched error and DONE is 0 (R54). -/
  inProgress : s.busy = true → s.err = false ∧ s.done = false
  /-- While `rst` is 1 no command is in progress (R158). -/
  held : s.rst = true → s.busy = false

/-! ## The terms the statements use -/

/-- The host may reach everything: out of reset, no command in progress (R41, R158). -/
abbrev State.idle (s : State) : Prop := s.rst = false ∧ s.busy = false

/-- EV[k] (R16). -/
abbrev State.validE (s : State) (k : EReg) : Prop := s.ev.getLsbD k.toNat = true
/-- E[k] (R16). -/
abbrev State.valueE (s : State) (k : EReg) : Byte := s.e[k.toNat]'k.isLt
/-- PV[k] (R17). -/
abbrev State.validP (s : State) (k : PReg) : Prop := s.pv.getLsbD k.toNat = true
/-- P[k] (R17). -/
abbrev State.valueP (s : State) (k : PReg) : Poly := s.p[k.toNat]'k.isLt

/-- The record a failed command leaves, and nothing else of it (R144). -/
def State.failed (s : State) (code : Byte) (info0 info1 : Word) : State :=
  { s with err := true, errCode := code, errCmd := s.cmdLatch, errInfo0 := info0, errInfo1 := info1, busy := false, done := true }

/-- A completed command whose one result is E[d] (R16, R54). -/
def State.wroteE (s : State) (d : EReg) (v : Byte) : State :=
  { s with e := s.e.set d.toNat v d.isLt, ev := s.ev ||| BitVec.twoPow 16 d.toNat, busy := false, done := true }

/-- A completed command whose one result is P[d] (R17, R54). -/
def State.wroteP (s : State) (d : PReg) (v : Poly) : State :=
  { s with p := s.p.set d.toNat v d.isLt, pv := s.pv ||| BitVec.twoPow 8 d.toNat, busy := false, done := true }

/-- ERRINFO0 of an uninitialised operand, (class << 8) | index (R143). -/
def uninitInfo (cls idx : Nat) : Word := BitVec.ofNat 32 (256 * cls + idx)

/-- The values that R37 states for a reset, whatever the storage holds. -/
structure State.AtReset (s : State) : Prop where
  elements : s.ev = 0#16
  polynomials : s.pv = 0#8
  transform : s.tv = false
  matrix : s.bmDim = 0#32
  memos : s.fmt = 0#32 ∧ s.ver = 0#32
  codewords : s.cwCount = 0#32
  results : s.res = 0#32 ∧ s.acc = 0#32
  image : s.imgW = 0#12 ∧ s.imgH = 0#12
  control : s.doneIe = false ∧ s.errIe = false
  status : s.busy = false ∧ s.done = false ∧ s.err = false ∧ s.drop = false ∧ s.errCode = 0#8
  record : s.errCmd = 0#32 ∧ s.errInfo0 = 0#32 ∧ s.errInfo1 = 0#32

/-- Everything that R37 leaves unspecified holds the free values of draw n. -/
structure State.Drawn (s : State) (n : Nat) : Prop where
  elements : ∀ k : EReg, s.valueE k = Config.resetElement n k.toFin
  polynomials : ∀ k : PReg, s.valueP k = Config.resetPoly n k.toFin
  transform : ∀ k : Fin 9, s.t.coefficient k.val = Config.resetTransform n k
  quadrilaterals : ∀ k : BitVec 4, s.q[k.toNat]'k.isLt = Config.resetQuad n k.toFin
  storage : ∀ a : Nat, s.mem.read a = Config.resetByte (n + 1) a
  modules : s.bm.bits = Config.resetModules n
  latch : s.cmdLatch = Config.resetLatch n
  counted : s.draws = n + 1

/-- The next step resets the block: the `rst` input is or was 1, or CTRL is written with SOFT_RESET (R158, R159). -/
def State.resetNext (s : State) : Bool :=
  match s.inputs with
  | .rst level :: _ => level || s.rst
  | .write a v :: _ => !s.rst && a == 1#19 && v.getLsbD 31
  | _ => false

/-- The next step writes CTRL with CLR_ERR and without SOFT_RESET (R147). -/
def State.clearNext (s : State) : Bool :=
  match s.inputs with
  | .write a v :: _ => !s.rst && a == 1#19 && v.getLsbD 8 && !v.getLsbD 31
  | _ => false

/-- The next step is the block's, and it executes `i` (R54). -/
def State.runs (s : State) (i : Instr) : Prop :=
  (s.inputs = [] ∨ ∃ rest, s.inputs = .blockTurn :: rest) ∧ s.rst = false ∧ s.busy = true ∧ decode s.cmdLatch = .ok i

/-! What each command may write (the lists of R16–R28). -/

/-- The E register a command writes (R16). -/
def destinationE : Instr → Option EReg
  | .gfLi d _ | .gfAdd d _ _ | .gfMul d _ _ | .gfInv d _ | .pCoef d _ _ | .pEval d _ _ => some d
  | _ => none

/-- The P registers a command writes (R17). -/
def destinationsP : Instr → List PReg
  | .pZero d | .pOne d | .pMono d _ _ | .pLd d _ | .pAdd d _ _ | .pMul d _ _ | .pMuls d _ _ | .pMulm d _ _ _ => [d]
  | .pDiv q r _ _ => [q, r]
  | _ => []

/-- The commands that write T and set TV (R20). -/
def writesTransform (i : Instr) : Prop := i = .tQq ∨ ∃ dim, i = .sQuad dim
/-- The commands that write RES (R18). -/
def writesRes (i : Instr) : Prop := (∃ a, i = .pDeg a) ∨ (∃ a, i = .pIsz a) ∨ ∃ x y, i = .mGet x y
/-- The commands that write ACC (R19). -/
def writesAcc (i : Instr) : Prop := i = .dNew ∨ ∃ x y, i = .dRdbit x y
/-- The commands that create a matrix (R26, R113). -/
def createsMatrix (i : Instr) : Prop := (∃ dim, i = .mInit dim) ∨ (∃ dim, i = .sGrid dim) ∨ ∃ dim, i = .sQuad dim
/-- The commands that change modules in place (R26). -/
def changesModules (i : Instr) : Prop := (∃ x y, i = .mSet x y) ∨ (∃ m, i = .dUnmask m) ∨ i = .dCw
/-- The commands that clear the memos FMT and VER (R165). -/
def clearsMemos (i : Instr) : Prop := createsMatrix i ∨ i = .dNew
/-- The number of points of PT that a command stores (R108, R114). -/
def pointsStored : Instr → Nat
  | .tMap n | .sNudge n => n.toNat
  | _ => 0

/-- The word addresses of the host map that a host write can change something through (R43): CTRL, CMD, ACC, IMG_W, IMG_H, and the E, Q, PT, LB, BM and PIX windows. -/
def hostWritable (w : Nat) : Bool :=
  w == 1 || w == 6 || w == 8 || w == 9 || w == 10 ||
  (decide (0x40 ≤ w) && decide (w < 0x50)) || (decide (0x80 ≤ w) && decide (w < 0xA0)) ||
  (decide (0x400 ≤ w) && decide (w < 0xA00)) || (decide (0x3000 ≤ w) && decide (w < 0x3426)) ||
  (decide (0x40000 ≤ w) && decide (w < 0x60000))

/-- The word addresses that nothing is mapped at (R43). -/
def hostUnmapped (w : Nat) : Bool :=
  (decide (0x10 ≤ w) && decide (w < 0x40)) || (decide (0x50 ≤ w) && decide (w < 0x80)) ||
  (decide (0xB2 ≤ w) && decide (w < 0x400)) || (decide (0xA00 ≤ w) && decide (w < 0x1000)) ||
  (decide (0x3426 ≤ w) && decide (w < 0x4000)) || (decide (0x439F ≤ w) && decide (w < 0x40000)) || decide (0x60000 ≤ w)

/-- `match` and `mask` of a command's row of the opcode map (R58). -/
def opcodeRow : Instr → Word × Word
  | .nop => (0x00000000#32, 0xFFFFFFFF#32)
  | .gfLi _ _ => (0x10000000#32, 0xFF0FFF00#32)
  | .gfAdd _ _ _ => (0x11000000#32, 0xFF000FFF#32)
  | .gfMul _ _ _ => (0x12000000#32, 0xFF000FFF#32)
  | .gfInv _ _ => (0x13000000#32, 0xFF00FFFF#32)
  | .pZero _ => (0x20000000#32, 0xFF8FFFFF#32)
  | .pOne _ => (0x21000000#32, 0xFF8FFFFF#32)
  | .pMono _ _ _ => (0x22000000#32, 0xFF80F000#32)
  | .pLd _ _ => (0x23000000#32, 0xFF8FF000#32)
  | .pDeg _ => (0x24000000#32, 0xFFF8FFFF#32)
  | .pIsz _ => (0x25000000#32, 0xFFF8FFFF#32)
  | .pCoef _ _ _ => (0x26000000#32, 0xFF08F000#32)
  | .pEval _ _ _ => (0x27000000#32, 0xFF080FFF#32)
  | .pAdd _ _ _ => (0x28000000#32, 0xFF888FFF#32)
  | .pMul _ _ _ => (0x29000000#32, 0xFF888FFF#32)
  | .pMuls _ _ _ => (0x2A000000#32, 0xFF880FFF#32)
  | .pMulm _ _ _ _ => (0x2B000000#32, 0xFF880000#32)
  | .pDiv _ _ _ _ => (0x2C000000#32, 0xFF888FF8#32)
  | .tQq => (0x40000000#32, 0xFFFFFFFF#32)
  | .tMap _ => (0x41000000#32, 0xFFFFF000#32)
  | .sNudge _ => (0x50000000#32, 0xFFFFF000#32)
  | .sGrid _ => (0x51000000#32, 0xFFFFF000#32)
  | .sQuad _ => (0x52000000#32, 0xFFFFF000#32)
  | .mInit _ => (0x60000000#32, 0xFFFFF000#32)
  | .mSet _ _ => (0x61000000#32, 0xFFFF0000#32)
  | .mGet _ _ => (0x62000000#32, 0xFFFF0000#32)
  | .dNew => (0x70000000#32, 0xFFFFFFFF#32)
  | .dRdbit _ _ => (0x71000000#32, 0xFFFF0000#32)
  | .dFmt => (0x72000000#32, 0xFFFFFFFF#32)
  | .dVer => (0x73000000#32, 0xFFFFFFFF#32)
  | .dUnmask _ => (0x74000000#32, 0xFFFFFFF8#32)
  | .dCw => (0x75000000#32, 0xFFFFFFFF#32)

/-! What the arithmetic is measured against. -/

/-- The coefficient of degree k, 0 above the degree (R80). -/
def polyCoefficient (p : Poly) (k : Nat) : Byte := if k < p.length then p.getD (p.length - 1 - k) 0#8 else 0#8

/-- A list in canonical form (R81). -/
abbrev canonical (p : Poly) : Prop := 1 ≤ p.length ∧ (p.length = 1 ∨ lead p ≠ 0#8)

/-- EXP[i] = 2^i (R78), by repeated doubling: a shift, and 0x11D taken away where it leaves the 8 bits. -/
def fieldExp : Nat → Byte
  | 0 => 1#8
  | i + 1 => if (fieldExp i).getLsbD 7 then (fieldExp i <<< 1) ^^^ 0x1D#8 else fieldExp i <<< 1

/-- a^n in the field. -/
def fieldPower (f : BitVec 9) (a : Byte) : Nat → Byte
  | 0 => 1#8
  | n + 1 => gfMul f a (fieldPower f a n)

/-- The mathematical value of a finite encoding (R11). -/
def realValue (v : F64) : ℚ :=
  match unpack v with
  | .fin neg mant exp => (if neg then -1 else 1) * (mant : ℚ) * (2 : ℚ) ^ exp
  | _ => 0

/-- `r` is nearest to x, ties to even (R11, R100): every other finite value is further from x, or as far with `r` the even one. -/
def isNearest (r : F64) (x : ℚ) : Prop :=
  ∀ w : F64, finite w = true → realValue w = realValue r ∨ |realValue r - x| < |realValue w - x| ∨
    (|realValue r - x| = |realValue w - x| ∧ r.getLsbD 0 = false)

/-- `r` is x rounded to binary64: below the overflow threshold 2^1024 − 2^970 the nearest finite value (R11, R100); from it on the infinity of x's sign, the overflow case of IEEE-754 that R100 does not spell out (PRESUMED, log entry 8). -/
def roundsTo (r : F64) (x : ℚ) : Prop :=
  if |x| < 2 ^ 1024 - 2 ^ 970 then finite r = true ∧ isNearest r x else unpack r = .inf (decide (x < 0))

/-! The points of the sampler. -/

/-- Point p of a list. -/
abbrev pointAt (pts : List Point) (p : Nat) : Point := pts.getD p (fzero, fzero)

/-- Both coordinates floor to a pixel of a w × h image (R112). -/
abbrev insideImage (w h : Nat) (pt : Point) : Prop :=
  0 ≤ ffloor pt.1 ∧ ffloor pt.1 < w ∧ 0 ≤ ffloor pt.2 ∧ ffloor pt.2 < h

/-- Both coordinates floor into −1 .. w and −1 .. h (R111). -/
abbrev withinReach (w h : Nat) (pt : Point) : Prop :=
  -1 ≤ ffloor pt.1 ∧ ffloor pt.1 ≤ w ∧ -1 ≤ ffloor pt.2 ∧ ffloor pt.2 ≤ h

/-- What the nudge makes of a coordinate it looks at (R111): 0.0 from floor −1, size − 1 from floor size, itself else. -/
abbrev nudgedTo (size : Nat) (v r : F64) : Prop :=
  (ffloor v = -1 → r = fzero) ∧ (ffloor v = size → r = fofNat (size - 1)) ∧ (ffloor v ≠ -1 → ffloor v ≠ size → r = v)

/-- One of the two scans of R111 comes to point p: no point before it, or none behind it, stops the scan by needing no nudge. -/
def scanned (w h : Nat) (pts : List Point) (p : Nat) : Prop :=
  (∀ i < p, ¬ insideImage w h (pointAt pts i)) ∨ ∀ j, p < j → j < pts.length → ¬ insideImage w h (pointAt pts j)

/-- Point p is the first out of reach that the scans of R111 come to: the front scan has nudged every point before it; or the front scan has stopped at a point i before it, and the back scan has nudged every point behind it. -/
def scanFails (w h : Nat) (pts : List Point) (p : Nat) : Prop :=
  p < pts.length ∧ ¬ withinReach w h (pointAt pts p) ∧
  ((∀ i < p, withinReach w h (pointAt pts i) ∧ ¬ insideImage w h (pointAt pts i)) ∨
   ((∃ i < p, insideImage w h (pointAt pts i) ∧ ∀ k < i, withinReach w h (pointAt pts k)) ∧
    ∀ j, p < j → j < pts.length → withinReach w h (pointAt pts j) ∧ ¬ insideImage w h (pointAt pts j)))

/-- Point p is the first that is not finite (R108, R111). -/
def firstNonFinite (pts : List Point) (p : Nat) : Prop :=
  p < pts.length ∧ finitePoint (pointAt pts p) = false ∧ ∀ j < p, finitePoint (pointAt pts j) = true

/-- The mapped cell centres of grid row y (R112). -/
def gridPoints (t : Transform) (dim y : Nat) : List Point :=
  (List.range dim).map (fun x => mapPt t (fadd (fofNat x) fhalf, fadd (fofNat y) fhalf))

/-- Grid row y is sampled without an error (R112). -/
def rowPasses (s : State) (t : Transform) (dim y : Nat) : Prop :=
  ∃ pts, nudge s.imgW.toNat s.imgH.toNat y (gridPoints t dim y) = .ok pts ∧
    ∀ pt ∈ pts, insideImage s.imgW.toNat s.imgH.toNat pt

/-- The GeometryError of grid row y, its sub-cause and its column (R111, R112): the first point that is not finite; else the first out of reach that the scans come to; else the first that after the nudge lies outside the image. -/
def rowFails (s : State) (t : Transform) (dim y cause col : Nat) : Prop :=
  (cause = 2 ∧ firstNonFinite (gridPoints t dim y) col) ∨
  (cause = 3 ∧ (∀ pt ∈ gridPoints t dim y, finitePoint pt = true) ∧ scanFails s.imgW.toNat s.imgH.toNat (gridPoints t dim y) col) ∨
  (cause = 4 ∧ ∃ pts, nudge s.imgW.toNat s.imgH.toNat y (gridPoints t dim y) = .ok pts ∧ col < pts.length ∧
    ¬ insideImage s.imgW.toNat s.imgH.toNat (pointAt pts col) ∧ ∀ j < col, insideImage s.imgW.toNat s.imgH.toNat (pointAt pts j))

/-! The configurations a block may be built with. -/

/-- The product of a polynomial over GF(2) with the lowest n terms of another; bit k is the coefficient of x^k. -/
def carryless (a : Nat) : Nat → Nat → Nat
  | 0, _ => 0
  | n + 1, b => (b % 2 * a) ^^^ (2 * carryless a n (b / 2))

/-- A polynomial over GF(2) is irreducible of degree 8 (R72): it is no product of one of degree n and one of degree 8 − n, where n from 1 to 4 is the smaller degree. -/
def irreducibleDegree8 (f : BitVec 9) : Prop :=
  f.getLsbD 8 = true ∧ ∀ n < 5, 1 ≤ n → ∀ a < 2 ^ n, ∀ b < 2 ^ (8 - n), carryless (2 ^ n + a) 8 (2 ^ (8 - n) + b) ≠ f.toNat

/-- The constraints that every configuration keeps (R5; FIELD_POLY: 93_implementation_defined.md). That FORMAT_DECODE gives ecBits in 0..3 and a maskId in 0..7 is its type. -/
structure LegalConfiguration (c : Configuration) : Prop where
  field : irreducibleDegree8 c.fieldPoly
  totals : ∀ v, 1 ≤ v → v ≤ Config.vmax → c.totalCodewords v ≤ Config.cwmax
  pattern : ∀ v x y, 1 ≤ v → v ≤ Config.vmax → c.functionModule v x y = true → x < 17 + 4 * v ∧ y < 17 + 4 * v
  versions : ∀ w v, c.versionDecode w = some v → 7 ≤ v ∧ v ≤ Config.vmax

end Sys2Proof.Machine
end

