-- ==== Sys2Proof/Certificates/Slice0/Obligations.lean ====
section
/-! DEFINITION. The statements for the provers, from the numbered rules of the spec. OBLIGATIONS.json gives each its title, tier and rules. Host addresses stand as word addresses, a quarter of the byte address (R38). -/

section
open Sys2Proof Sys2Proof.Machine

/-! ## Encoding and the step -/

/-- Decoding the word of a well-formed command gives the command back (R55–R58). -/
def Obligations.EncodeThenDecode : Prop :=
  ∀ i : Instr, i.wellFormed = true → decode (encode i) = .ok i

/-- Every legal word has one meaning, and it is the word of that command (R58, R59). -/
def Obligations.DecodeThenEncode : Prop :=
  ∀ (w : Word) (i : Instr), decode w = .ok i → encode i = w ∧ i.wellFormed = true

/-- The decoder accepts exactly the words that `match` and `mask` of R58 and the P.DIV condition select, each as its row's command. -/
def Obligations.LegalWordsFollowOpcodeMap : Prop :=
  ∀ w : Word,
    (∀ i, decode w = .ok i → w &&& (opcodeRow i).2 = (opcodeRow i).1) ∧
    (∀ j : Instr, w &&& (opcodeRow j).2 = (opcodeRow j).1 →
      (opField w = 0x2C#8 → dField w ≠ (immField w).extractLsb' 0 4) →
      ∃ i, decode w = .ok i ∧ opcodeRow i = opcodeRow j) ∧
    ((∀ j : Instr, w &&& (opcodeRow j).2 ≠ (opcodeRow j).1) → ∃ x, decode w = .error x) ∧
    (opField w = 0x2C#8 → dField w = (immField w).extractLsb' 0 4 → ∃ x, decode w = .error x)

/-- Words that the spec's examples write out, one or more of every family, decode to the commands they stand for. -/
def Obligations.SpecWordsDecode : Prop :=
  decode 0x00000000#32 = .ok .nop ∧ decode 0x10100053#32 = .ok (.gfLi 1 0x53#8) ∧
  decode 0x11401000#32 = .ok (.gfAdd 4 0 1) ∧ decode 0x13300000#32 = .ok (.gfInv 3 0) ∧
  decode 0x22210003#32 = .ok (.pMono 2 1 3#12) ∧ decode 0x2B731002#32 = .ok (.pMulm 7 3 1 2#12) ∧
  decode 0x2C043001#32 = .ok (.pDiv 0 1 4 3) ∧ decode 0x41000006#32 = .ok (.tMap 6#12) ∧
  decode 0x50000003#32 = .ok (.sNudge 3#12) ∧ decode 0x52000015#32 = .ok (.sQuad 21#12) ∧
  decode 0x61000304#32 = .ok (.mSet 3#8 4#8) ∧ decode 0x71000802#32 = .ok (.dRdbit 8#8 2#8) ∧
  decode 0x74000002#32 = .ok (.dUnmask 2#3) ∧ decode 0x75000000#32 = .ok .dCw

/-- A word that no row of the opcode map selects, or a P.DIV with one register for both results, raises IllegalCommand when the block executes it, and nothing but the error record, BUSY and DONE changes (R59). -/
def Obligations.IllegalWordsRaise : Prop :=
  ∀ s : State, s.inputs = [] → s.rst = false → s.busy = true →
    (∀ j : Instr, s.cmdLatch &&& (opcodeRow j).2 ≠ (opcodeRow j).1) ∨
      (opField s.cmdLatch = 0x2C#8 ∧ dField s.cmdLatch = (immField s.cmdLatch).extractLsb' 0 4) →
    step s = .next (s.failed 0x08#8 0#32 0#32)

/-- When the word in CMDLATCH decodes to i and it is the block's turn, the step is exec of i; with nothing to run it changes nothing; an input still to come happens first (R54; the schedule of inputs and block turns is the model's, log entry 1). -/
def Obligations.StepRunsTheCommand : Prop :=
  (∀ (s : State) (i : Instr), s.inputs = [] → s.rst = false → s.busy = true → decode s.cmdLatch = .ok i → step s = exec i s) ∧
  (∀ (s : State) (i : Instr) (rest : List Input), s.inputs = .blockTurn :: rest → s.rst = false → s.busy = true →
    decode s.cmdLatch = .ok i → step s = exec i { s with inputs := rest }) ∧
  (∀ s : State, s.inputs = [] → s.busy = false ∨ s.rst = true → step s = .next s) ∧
  (∀ (s : State) (a : BitVec 19) (rest : List Input), s.inputs = .read a :: rest →
    step s = .next (hostRead a { s with inputs := rest })) ∧
  (∀ (s : State) (a : BitVec 19) (v : Word) (rest : List Input), s.inputs = .write a v :: rest →
    step s = .next (hostWrite a v { s with inputs := rest })) ∧
  (∀ (s : State) (level : Bool) (rest : List Input), s.inputs = .rst level :: rest →
    step s = .next (driveRst level { s with inputs := rest }))

/-! ## The host's accesses -/

/-- A CMD write is accepted when BUSY and ERR are 0, and latched (R54); while ERR = 1 it is dropped and sets DROP alone; no other write looks at ERR (R146). -/
def Obligations.CommandOffer : Prop :=
  (∀ (s : State) (w : Word), s.idle → s.err = false →
    hostWrite 6#19 w s = { s with cmdLatch := w, busy := true, done := false }) ∧
  (∀ (s : State) (w : Word), s.idle → s.err = true → hostWrite 6#19 w s = { s with drop := true }) ∧
  (∀ (s : State) (a : BitVec 19) (v : Word) (b c : Bool), s.idle → a ≠ 6#19 →
    { hostWrite a v { s with err := b } with err := c } = { hostWrite a v s with err := c })

/-- While BUSY = 1: a write but of CTRL is dropped and sets DROP; reads of ID, CTRL and STATUS give the current value and every other read a free one; a CTRL write takes effect as when idle, and with SOFT_RESET it ends the command (R41). The model's choices: the free value is numbered by its own counter `draws` (log entry 6), and a dropped write to a read-only or unmapped address sets DROP too (log entry 11). -/
def Obligations.BusyAccesses : Prop :=
  ∀ (s : State) (a : BitVec 19) (v : Word), s.rst = false → s.busy = true →
    (a ≠ 1#19 → hostWrite a v s = { s with drop := true }) ∧
    hostRead 0#19 s = { s with rdata := 0x4A515207#32 } ∧
    hostRead 1#19 s = { s with rdata := s.ctrl } ∧
    hostRead 2#19 s = { s with rdata := s.status } ∧
    (2#19 < a → hostRead a s = { s with rdata := Config.busyRead s.draws, draws := s.draws + 1 }) ∧
    (v.getLsbD 31 = false → hostWrite 1#19 v s = { hostWrite 1#19 v { s with busy := false } with busy := true }) ∧
    (v.getLsbD 31 = true → hostWrite 1#19 v s = hostWrite 1#19 v { s with busy := false } ∧ (hostWrite 1#19 v s).busy = false)

/-- Outside BUSY and reset: a write to a read-only or unmapped address is ignored; an unmapped address and CMD read 0; a read changes nothing but the read data, and reading twice gives the same value (R40, R43). -/
def Obligations.HostAccessRules : Prop :=
  (∀ (s : State) (a : BitVec 19) (v : Word), s.idle → hostWritable a.toNat = false → hostWrite a v s = s) ∧
  (∀ (s : State) (a : BitVec 19), s.idle → hostUnmapped a.toNat = true ∨ a = 6#19 → hostRead a s = { s with rdata := 0#32 }) ∧
  (∀ (s : State) (a : BitVec 19), s.idle → hostRead a s = { s with rdata := (hostRead a s).rdata }) ∧
  (∀ (s : State) (a b : BitVec 19), s.idle → (hostRead a (hostRead b s)).rdata = (hostRead a s).rdata)

/-- A CTRL write without SOFT_RESET takes the enables and then does CLR_ERR and CLR_DONE, with BUSY 0 or 1; CTRL reads its enables and zeros elsewhere; both enables are 0 after reset (R31). CLR_ERR after a failed command gives back the state from before it (with the enables and CLR_DONE of the same write), and the next command word is accepted (R147). -/
def Obligations.ControlWriteAndErrorClear : Prop :=
  ((∀ (s : State) (v : Word), s.rst = false → v.getLsbD 31 = false →
    hostWrite 1#19 v s =
      { s with
        doneIe := v.getLsbD 0
        errIe := v.getLsbD 1
        err := s.err && !v.getLsbD 8
        errCode := if v.getLsbD 8 then 0#8 else s.errCode
        errCmd := if v.getLsbD 8 then 0#32 else s.errCmd
        errInfo0 := if v.getLsbD 8 then 0#32 else s.errInfo0
        errInfo1 := if v.getLsbD 8 then 0#32 else s.errInfo1
        drop := s.drop && !v.getLsbD 8
        done := s.done && !v.getLsbD 9 }) ∧
  (∀ (s : State) (v v' : Word), s.rst = false → v.getLsbD 31 = true → v'.getLsbD 31 = true →
    hostWrite 1#19 v s = hostWrite 1#19 v' s ∧ (hostWrite 1#19 v s).AtReset) ∧
  (∀ (s : State) (k : Nat), s.rst = false →
    (hostRead 1#19 s).rdata.getLsbD k = (decide (k = 0) && s.doneIe || decide (k = 1) && s.errIe)) ∧
  State.reset.doneIe = false ∧ State.reset.errIe = false) ∧
  ((∀ (s : State) (code : Byte) (info0 info1 : Word) (v : Word), s.rst = false → v.getLsbD 8 = true → v.getLsbD 31 = false →
    hostWrite 1#19 v (s.failed code info0 info1) =
      { s with
        doneIe := v.getLsbD 0, errIe := v.getLsbD 1, err := false, errCode := 0#8, errCmd := 0#32, errInfo0 := 0#32
        errInfo1 := 0#32, drop := false, busy := false, done := !v.getLsbD 9 }) ∧
  (∀ (s : State) (v w : Word), s.idle → v.getLsbD 8 = true → v.getLsbD 31 = false →
    hostWrite 6#19 w (hostWrite 1#19 v s) =
      { hostWrite 1#19 v s with cmdLatch := w, busy := true, done := false }))

/-- SOFT_RESET, in any state out of the hardware reset, gives the table of R37 with fresh free values for what it leaves unspecified, whatever the other bits of the write; a command in progress commits nothing and sets neither DONE nor ERR; CTRL then reads 0 (R159). State.reset has the table's values too (R37). The model's choices: the free values are numbered by the counter `draws`, and the inputs still to come stay (log entry 5); storage shows them through its epoch (log entry 4). -/
def Obligations.SoftReset : Prop :=
  State.reset.AtReset ∧ State.reset.valid = 0#32 ∧ State.reset.status = 0#32 ∧
  ∀ (s : State) (v : Word), s.rst = false → v.getLsbD 31 = true →
    (hostWrite 1#19 v s).AtReset ∧
    (hostWrite 1#19 v s).valid = 0#32 ∧ (hostWrite 1#19 v s).status = 0#32 ∧ (hostWrite 1#19 v s).ctrl = 0#32 ∧
    (hostWrite 1#19 v s).Drawn s.draws ∧ (hostWrite 1#19 v s).inputs = s.inputs

/-- While rst is 1 writes are ignored, reads give 0 but for ID, and no command runs; rst rising discards the command in progress with neither DONE nor ERR; when it returns to 0 the state is the table of R37 (R158). The state during reset, a low level on a running block changing nothing, and the numbering of the free values are the model's (log entries 10 and 5). -/
def Obligations.ResetInput : Prop :=
  (∀ (s : State) (a : BitVec 19) (v : Word), s.rst = true → hostWrite a v s = s) ∧
  (∀ (s : State) (a : BitVec 19), s.rst = true → hostRead a s = { s with rdata := if a = 0#19 then 0x4A515207#32 else 0#32 }) ∧
  (∀ s : State, s.rst = true → blockStep s = .next s) ∧
  (∀ s : State, (driveRst true s).rst = true ∧ (driveRst true s).AtReset ∧ (driveRst true s).Drawn s.draws) ∧
  (∀ s : State, s.rst = true → (driveRst false s).rst = false ∧ (driveRst false s).AtReset ∧ (driveRst false s).Drawn s.draws) ∧
  (∀ s : State, s.rst = false → driveRst false s = s)

/-- STATUS shows BUSY, DONE, ERR, DROP, IRQ and ERRCODE in their bits and 0 elsewhere, also while BUSY (R32); irq is (DONE and DONE_IE) or (ERR and ERR_IE) (R149). VALID mirrors EV, PV, TV and the existence of a matrix, and reads 0 after reset (R35). -/
def Obligations.StatusAndValid : Prop :=
  (∀ (s : State) (k : Nat), s.rst = false →
    s.irq = ((s.done && s.doneIe) || (s.err && s.errIe)) ∧
    (hostRead 2#19 s).rdata.getLsbD k =
      (if k = 0 then s.busy else if k = 1 then s.done else if k = 2 then s.err else if k = 3 then s.drop
       else if k = 4 then s.irq else if 8 ≤ k ∧ k < 16 then s.errCode.getLsbD (k - 8) else false)) ∧
  ((∀ (s : State) (k : Nat), s.idle →
    (hostRead 15#19 s).rdata.getLsbD k =
      (if k < 16 then s.ev.getLsbD k else if k < 24 then s.pv.getLsbD (k - 16) else if k = 24 then s.tv
       else if k = 25 then decide (s.bmDim ≠ 0#32) else false)) ∧
  (hostRead 15#19 State.reset).rdata = 0#32)

/-- ID, RES, ACC, IMG_W, IMG_H, BM_DIM, FMT, VER, CW_COUNT and the error record as the host reads them; ACC, IMG_W and IMG_H as it writes them (R18, R19, R24, R26–R28, R30, R33). -/
def Obligations.ScalarRegisters : Prop :=
  ∀ (s : State) (v : Word), s.idle →
    (hostRead 0#19 s).rdata = 0x4A515207#32 ∧ (hostRead 3#19 s).rdata = s.errCmd ∧ (hostRead 4#19 s).rdata = s.errInfo0 ∧
    (hostRead 5#19 s).rdata = s.errInfo1 ∧ (hostRead 7#19 s).rdata = s.res ∧ (hostRead 8#19 s).rdata = s.acc ∧
    (hostRead 9#19 s).rdata = s.imgW.setWidth 32 ∧ (hostRead 10#19 s).rdata = s.imgH.setWidth 32 ∧
    (hostRead 11#19 s).rdata = s.bmDim ∧ (hostRead 12#19 s).rdata = s.fmt ∧ (hostRead 13#19 s).rdata = s.ver ∧
    (hostRead 14#19 s).rdata = s.cwCount ∧
    hostWrite 8#19 v s = { s with acc := v } ∧
    hostWrite 9#19 v s = { s with imgW := v.extractLsb' 0 12 } ∧
    hostWrite 10#19 v s = { s with imgH := v.extractLsb' 0 12 }

/-- The E window: a read gives E[k] zero-extended, 0 while it is not valid; a write stores bits [7:0] and sets the valid bit, nothing else (R44). -/
def Obligations.ElementWindow : Prop :=
  ∀ (s : State) (k : EReg) (v : Word), s.idle →
    (hostRead (0x40#19 + k.setWidth 19) s).rdata = (if s.ev.getLsbD k.toNat then (s.valueE k).setWidth 32 else 0#32) ∧
    hostWrite (0x40#19 + k.setWidth 19) v s =
      { s with e := s.e.set k.toNat (v.extractLsb' 0 8) k.isLt, ev := s.ev ||| BitVec.twoPow 16 k.toNat }

/-- A binary64 value of Q or PT is the word at A and, above it, the word at A + 4; writing one half changes only those 32 bits; writing both stores the value, and T reads the same way, 0 while TV = 0 (R42, R164). -/
def Obligations.DoubleHalves : Prop :=
  (∀ (s : State) (k : BitVec 4) (lo hi : Word), s.idle →
    hostWrite (0x80#19 + 2#19 * k.setWidth 19) lo s =
      { s with q := s.q.set k.toNat ((s.q[k.toNat]'k.isLt).extractLsb' 32 32 ++ lo) k.isLt } ∧
    hostWrite (0x81#19 + 2#19 * k.setWidth 19) hi s =
      { s with q := s.q.set k.toNat (hi ++ (s.q[k.toNat]'k.isLt).extractLsb' 0 32) k.isLt } ∧
    (hostRead (0x80#19 + 2#19 * k.setWidth 19) s).rdata = (s.q[k.toNat]'k.isLt).extractLsb' 0 32 ∧
    (hostRead (0x81#19 + 2#19 * k.setWidth 19) s).rdata = (s.q[k.toNat]'k.isLt).extractLsb' 32 32) ∧
  (∀ (s : State) (k : BitVec 9) (lo hi : Word), s.idle → s.mem.wf →
    ∃ t u : State,
      hostWrite (0x400#19 + 2#19 * k.setWidth 19) lo s = t ∧ t = { s with mem := t.mem } ∧
      t.pt k.toNat = (s.pt k.toNat).extractLsb' 32 32 ++ lo ∧
      hostWrite (0x401#19 + 2#19 * k.setWidth 19) hi s = u ∧ u = { s with mem := u.mem } ∧
      u.pt k.toNat = hi ++ (s.pt k.toNat).extractLsb' 0 32 ∧
      (∀ a, a < ptAddr k.toNat ∨ ptAddr k.toNat + 8 ≤ a → t.mem.read a = s.mem.read a ∧ u.mem.read a = s.mem.read a) ∧
      (hostRead (0x400#19 + 2#19 * k.setWidth 19) s).rdata = (s.pt k.toNat).extractLsb' 0 32 ∧
      (hostRead (0x401#19 + 2#19 * k.setWidth 19) s).rdata = (s.pt k.toNat).extractLsb' 32 32) ∧
  (∀ (s : State) (k : Nat), s.idle → k < 9 →
    (hostRead (BitVec.ofNat 19 (0xA0 + 2 * k)) s).rdata = (if s.tv then (s.t.coefficient k).extractLsb' 0 32 else 0#32) ∧
    (hostRead (BitVec.ofNat 19 (0xA1 + 2 * k)) s).rdata = (if s.tv then (s.t.coefficient k).extractLsb' 32 32 else 0#32))

/-- The LB window: a write stores bits [7:0] of LB[k] and no other byte; a read gives the byte zero-extended (R23). The PIX window: bit b of word w is PIX[32·w + b]; a read gives the 32 pixels, a write stores them and changes no other byte (R48). -/
def Obligations.ByteAndPixelWindows : Prop :=
  (∀ (s : State) (k : BitVec 9) (v : Word), s.idle → s.mem.wf →
    (hostRead (0x800#19 + k.setWidth 19) s).rdata = (s.lb k.toNat).setWidth 32 ∧
    ∃ t : State, hostWrite (0x800#19 + k.setWidth 19) v s = t ∧ t = { s with mem := t.mem } ∧
      t.lb k.toNat = v.extractLsb' 0 8 ∧ ∀ a, a ≠ lbAddr k.toNat → t.mem.read a = s.mem.read a) ∧
  (∀ (s : State) (w : Nat) (v : Word), s.idle → s.mem.wf → w < 131072 →
    (∀ b < 32, (hostRead (BitVec.ofNat 19 (0x40000 + w)) s).rdata.getLsbD b = s.pix (32 * w + b)) ∧
    ∃ t : State, hostWrite (BitVec.ofNat 19 (0x40000 + w)) v s = t ∧ t = { s with mem := t.mem } ∧
      (∀ b < 32, t.pix (32 * w + b) = v.getLsbD b) ∧
      ∀ a, a < pixAddr (4 * w) ∨ pixAddr (4 * w) + 4 ≤ a → t.mem.read a = s.mem.read a)

/-- The P window: L in its first word, the coefficients from the second on, highest degree first, 0 beyond and while the register is not valid; writes are ignored (R45). -/
def Obligations.PolynomialWindow : Prop :=
  ∀ (s : State) (k : PReg) (i : Nat) (v : Word), s.idle → i < 1024 →
    (hostRead (BitVec.ofNat 19 (0x1000 + 0x400 * k.toNat + i)) s).rdata =
      (if s.pv.getLsbD k.toNat then
        if i = 0 then BitVec.ofNat 32 (s.valueP k).length
        else if i ≤ 512 ∧ i - 1 < (s.valueP k).length then ((s.valueP k).getD (i - 1) 0#8).setWidth 32 else 0#32
       else 0#32) ∧
    hostWrite (BitVec.ofNat 19 (0x1000 + 0x400 * k.toNat + i)) v s = s

/-- The BM window: bit b of word w of row y is module (32·w + b, y), 0 from column 177 on; a write stores the modules up to column 176 and changes nothing else (R46, R165). -/
def Obligations.MatrixWindow : Prop :=
  ∀ (s : State) (y w : Nat) (v : Word), s.idle → y < 177 → w < 6 →
    (∀ b < 32, (hostRead (BitVec.ofNat 19 (0x3000 + 6 * y + w)) s).rdata.getLsbD b =
      (decide (32 * w + b < 177) && s.bm.get (32 * w + b) y)) ∧
    ∃ t : State, hostWrite (BitVec.ofNat 19 (0x3000 + 6 * y + w)) v s = t ∧ t = { s with bm := t.bm } ∧
      ∀ x y', x < 177 → y' < 177 →
        t.bm.get x y' = if y' = y ∧ x / 32 = w then v.getLsbD (x % 32) else s.bm.get x y'

/-- The CW window: byte lane b of word w is CW[4·w + b], 0 from CW_COUNT on; writes are ignored (R47). -/
def Obligations.CodewordWindow : Prop :=
  ∀ (s : State) (w : Nat) (v : Word), s.idle → w < 927 →
    (∀ b < 4, (hostRead (BitVec.ofNat 19 (0x4000 + w)) s).rdata.extractLsb' (8 * b) 8 =
      if 4 * w + b < s.cwCount.toNat then s.cw (4 * w + b) else 0#8) ∧
    hostWrite (BitVec.ofNat 19 (0x4000 + w)) v s = s

/-! ## Errors, invariants, and what a command may change -/

/-- Every command ends in a next state with BUSY = 0 and DONE = 1: either it leaves the error record alone, or it leaves the error record and nothing else of its own, with a code of R143 that is never 0x06 (R144, R86). -/
def Obligations.CommandsCompleteOrFail : Prop :=
  ∀ (i : Instr) (s : State), ∃ t : State, exec i s = .next t ∧ t.busy = false ∧ t.done = true ∧
    ((t.err = s.err ∧ t.errCode = s.errCode ∧ t.errCmd = s.errCmd ∧ t.errInfo0 = s.errInfo0 ∧ t.errInfo1 = s.errInfo1) ∨
     ∃ (code : Byte) (info0 info1 : Word), latchable code ∧ t = s.failed code info0 info1)

/-- While an error is latched the record stays, and no command starts, at every step but a CTRL write with CLR_ERR and a reset (R145). -/
def Obligations.ErrorRecordSticky : Prop :=
  ∀ s t : State, s.Inv → s.err = true → s.resetNext = false → s.clearNext = false → step s = .next t →
    t.err = true ∧ t.errCode = s.errCode ∧ t.errCmd = s.errCmd ∧ t.errInfo0 = s.errInfo0 ∧ t.errInfo1 = s.errInfo1 ∧
    t.busy = false

/-- The machine after reset satisfies the invariants of Sys2Proof/Safety.lean. -/
def Obligations.ResetInvariant : Prop := State.reset.Inv

/-- Every step of every state with the invariants keeps them: canonical storage and polynomials, a finite transform, a legal dimension, memos that fit the matrix, a codeword count within the buffer, an error record that fits ERR, no error while BUSY. -/
def Obligations.StepKeepsInvariant : Prop :=
  ∀ s t : State, s.Inv → step s = .next t → t.Inv

/-- What a command may change: only the registers that R16–R28 list it as writing; Q, IMG, CTRL, DROP, CMDLATCH and what is the host's never; of storage only the points T.MAP and S.NUDGE store and the codewords D.CW stores. -/
def Obligations.CommandFootprint : Prop :=
  ∀ (i : Instr) (s t : State), exec i s = .next t →
    (∀ k : EReg, destinationE i ≠ some k → t.valueE k = s.valueE k ∧ t.ev.getLsbD k.toNat = s.ev.getLsbD k.toNat) ∧
    (∀ k : PReg, k ∉ destinationsP i → t.valueP k = s.valueP k ∧ t.pv.getLsbD k.toNat = s.pv.getLsbD k.toNat) ∧
    (¬ writesTransform i → t.t = s.t ∧ t.tv = s.tv) ∧
    (¬ writesRes i → t.res = s.res) ∧ (¬ writesAcc i → t.acc = s.acc) ∧
    (¬ createsMatrix i → t.bmDim = s.bmDim) ∧ (¬ createsMatrix i → ¬ changesModules i → t.bm = s.bm) ∧
    (¬ clearsMemos i → i ≠ .dFmt → i ≠ .dCw → t.fmt = s.fmt) ∧
    (¬ clearsMemos i → i ≠ .dVer → i ≠ .dCw → t.ver = s.ver) ∧
    (i ≠ .dCw → t.cwCount = s.cwCount) ∧
    (∀ a : Nat, ¬ (ptAddr 0 ≤ a ∧ a < ptAddr (2 * pointsStored i)) →
      ¬ (i = .dCw ∧ cwAddr 0 ≤ a ∧ a < cwAddr t.cwCount.toNat) → t.mem.read a = s.mem.read a) ∧
    t.q = s.q ∧ t.imgW = s.imgW ∧ t.imgH = s.imgH ∧ t.doneIe = s.doneIe ∧ t.errIe = s.errIe ∧ t.drop = s.drop ∧
    t.cmdLatch = s.cmdLatch ∧ t.rst = s.rst ∧ t.rdata = s.rdata ∧ t.inputs = s.inputs ∧ t.draws = s.draws

/-- A valid bit of E, P or T, once 1, stays 1 at every step that is not a reset (R16, R17, R20). -/
def Obligations.ValidBitsClearedOnlyByReset : Prop :=
  ∀ s t : State, step s = .next t → s.resetNext = false →
    (∀ k : EReg, s.validE k → t.validE k) ∧ (∀ k : PReg, s.validP k → t.validP k) ∧ (s.tv = true → t.tv = true)

/-- A memoized format or version stays as it is at every step but M.INIT, S.GRID, S.QUAD, D.NEW and a reset, also when the matrix changes, and D.FMT and D.VER then do not look at the matrix (R165). -/
def Obligations.MemosClearedOnlyBy : Prop :=
  (∀ s t : State, step s = .next t → s.resetNext = false → (∀ i, s.runs i → ¬ clearsMemos i) →
    (s.fv = true → t.fmt = s.fmt) ∧ (s.vv = true → t.ver = s.ver)) ∧
  (∀ (s : State) (m : BitMatrix), s.bmDim ≠ 0#32 →
    (s.fv = true → exec .dFmt { s with bm := m } = .next { s with bm := m, busy := false, done := true }) ∧
    (s.vv = true → exec .dVer { s with bm := m } = .next { s with bm := m, busy := false, done := true }))

/-- CW_COUNT and every codeword byte stay as they are at every step but a successful D.CW and a reset (R167). -/
def Obligations.CodewordsOutliveTheirMatrix : Prop :=
  ∀ s t : State, step s = .next t → s.resetNext = false → (s.runs .dCw → s.err = false ∧ t.err = true) →
    t.cwCount = s.cwCount ∧ ∀ n < 3706, t.cw n = s.cw n

/-! ## NOP and the field -/

/-- NOP, GF.LI, GF.ADD, GF.MUL and GF.INV complete with the result of their rule in E[d] and nothing else (R64, R73–R76); the sources are read before the write. -/
def Obligations.ControlAndFieldResults : Prop :=
  ∀ (s : State) (d a b : EReg) (imm : Byte),
    exec .nop s = .next { s with busy := false, done := true } ∧
    exec (.gfLi d imm) s = .next (s.wroteE d imm) ∧
    (s.validE a → s.validE b → exec (.gfAdd d a b) s = .next (s.wroteE d (s.valueE a ^^^ s.valueE b))) ∧
    (s.validE a → s.validE b → exec (.gfMul d a b) s = .next (s.wroteE d (gfMul fieldPoly (s.valueE a) (s.valueE b)))) ∧
    (s.validE a → s.valueE a ≠ 0#8 → exec (.gfInv d a) s = .next (s.wroteE d (gfInv fieldPoly (s.valueE a))))

/-- The failures of the field and polynomial commands, in the order their rules check them: operands not valid (A before B), then argument, arithmetic and capacity, each leaving the error record alone (R74–R76, R89–R99, R85, R148). -/
def Obligations.FieldAndPolynomialTraps : Prop :=
  (∀ (s : State) (d a b : EReg),
    (¬ s.validE a → exec (.gfAdd d a b) s = .next (s.failed 0x09#8 (uninitInfo 1 a.toNat) 0#32) ∧
      exec (.gfMul d a b) s = .next (s.failed 0x09#8 (uninitInfo 1 a.toNat) 0#32) ∧
      exec (.gfInv d a) s = .next (s.failed 0x09#8 (uninitInfo 1 a.toNat) 0#32)) ∧
    (s.validE a → ¬ s.validE b → exec (.gfAdd d a b) s = .next (s.failed 0x09#8 (uninitInfo 1 b.toNat) 0#32) ∧
      exec (.gfMul d a b) s = .next (s.failed 0x09#8 (uninitInfo 1 b.toNat) 0#32)) ∧
    (s.validE a → s.valueE a = 0#8 → exec (.gfInv d a) s = .next (s.failed 0x07#8 1#32 0#32))) ∧
  (∀ (s : State) (d r a b : PReg) (x e : EReg) (k : BitVec 12),
    (¬ s.validE e → exec (.pMono d e k) s = .next (s.failed 0x09#8 (uninitInfo 1 e.toNat) 0#32)) ∧
    (s.validE e → k.toInt < 0 → exec (.pMono d e k) s = .next (s.failed 0x07#8 2#32 0#32)) ∧
    (s.validE e → s.valueE e ≠ 0#8 → 512 ≤ k.toInt →
      exec (.pMono d e k) s = .next (s.failed 0x0B#8 (BitVec.ofNat 32 (k.toNat + 1)) 0#32)) ∧
    (k.toNat = 0 ∨ 512 < k.toNat → exec (.pLd d k) s = .next (s.failed 0x0A#8 1#32 0#32)) ∧
    (¬ s.validP a →
      (∀ i ∈ [Instr.pDeg a, .pIsz a, .pCoef x a k, .pEval x a e, .pAdd d a b, .pMul d a b, .pMuls d a e, .pMulm d a e k],
        exec i s = .next (s.failed 0x09#8 (uninitInfo 2 a.toNat) 0#32)) ∧
      (d ≠ r → exec (.pDiv d r a b) s = .next (s.failed 0x09#8 (uninitInfo 2 a.toNat) 0#32))) ∧
    (s.validP a → ¬ s.validP b →
      exec (.pAdd d a b) s = .next (s.failed 0x09#8 (uninitInfo 2 b.toNat) 0#32) ∧
      exec (.pMul d a b) s = .next (s.failed 0x09#8 (uninitInfo 2 b.toNat) 0#32) ∧
      (d ≠ r → exec (.pDiv d r a b) s = .next (s.failed 0x09#8 (uninitInfo 2 b.toNat) 0#32))) ∧
    (s.validP a → ¬ s.validE e →
      exec (.pEval x a e) s = .next (s.failed 0x09#8 (uninitInfo 1 e.toNat) 0#32) ∧
      exec (.pMuls d a e) s = .next (s.failed 0x09#8 (uninitInfo 1 e.toNat) 0#32) ∧
      exec (.pMulm d a e k) s = .next (s.failed 0x09#8 (uninitInfo 1 e.toNat) 0#32)) ∧
    (s.validP a → k.toInt < 0 ∨ ((s.valueP a).length : Int) - 1 < k.toInt →
      exec (.pCoef x a k) s = .next (s.failed 0x0A#8 3#32 0#32)) ∧
    (s.validP a → s.validP b → s.valueP a ≠ [0#8] → s.valueP b ≠ [0#8] → 513 < (s.valueP a).length + (s.valueP b).length →
      exec (.pMul d a b) s =
        .next (s.failed 0x0B#8 (BitVec.ofNat 32 ((s.valueP a).length + (s.valueP b).length - 1)) 0#32)) ∧
    (s.validP a → s.validE e → k.toInt < 0 → exec (.pMulm d a e k) s = .next (s.failed 0x07#8 2#32 0#32)) ∧
    (s.validP a → s.validE e → 0 ≤ k.toInt → 512 < (pmulm fieldPoly (s.valueP a) (s.valueE e) k.toNat).length →
      exec (.pMulm d a e k) s =
        .next (s.failed 0x0B#8 (BitVec.ofNat 32 (pmulm fieldPoly (s.valueP a) (s.valueE e) k.toNat).length) 0#32)) ∧
    (s.validP a → s.validP b → s.valueP b = [0#8] → d ≠ r → exec (.pDiv d r a b) s = .next (s.failed 0x07#8 3#32 0#32)))

/-- The table form of the product under the default FIELD_POLY: powers of 2 multiply by adding exponents modulo 255, every nonzero element is one of them, and a zero factor gives 0 (R70). -/
def Obligations.MultiplicationTableForm : Prop :=
  (∀ i j, i < 255 → j < 255 → gfMul fieldPoly (fieldExp i) (fieldExp j) = fieldExp ((i + j) % 255)) ∧
  (∀ a : Byte, a ≠ 0#8 → ∃ i < 255, fieldExp i = a) ∧ (∀ a : Byte, gfMul fieldPoly a 0#8 = 0#8 ∧ gfMul fieldPoly 0#8 a = 0#8)

/-- The laws of R72, for every FIELD_POLY that is irreducible of degree 8: both operations commutative and associative, ⊗ distributing over ⊕, their identities, the inverse, no zero divisors. The inverse of a nonzero element is the one element whose product with it is 1 and is not 0; under the default FIELD_POLY it is EXP[255 − LOG[a]]; GF.INV of zero fails (R71). -/
def Obligations.FieldLawsAndInverse : Prop :=
  (∀ f : BitVec 9, irreducibleDegree8 f →
    (∀ a b : Byte, a ^^^ b = b ^^^ a ∧ gfMul f a b = gfMul f b a) ∧
    (∀ a b c : Byte, (a ^^^ b) ^^^ c = a ^^^ (b ^^^ c) ∧ gfMul f (gfMul f a b) c = gfMul f a (gfMul f b c)) ∧
    (∀ a b c : Byte, gfMul f a (b ^^^ c) = gfMul f a b ^^^ gfMul f a c) ∧
    (∀ a : Byte, gfMul f a 0#8 = 0#8 ∧ gfMul f a 1#8 = a) ∧
    (∀ a : Byte, a ≠ 0#8 → gfInv f (gfInv f a) = a ∧ gfMul f a (gfInv f a) = 1#8) ∧
    (∀ a b : Byte, gfMul f a b = 0#8 → a = 0#8 ∨ b = 0#8) ∧
    (∀ a : Byte, a ≠ 0#8 → gfInv f a ≠ 0#8 ∧ ∀ b : Byte, gfMul f a b = 1#8 → b = gfInv f a)) ∧
  (∀ i < 255, gfInv fieldPoly (fieldExp i) = fieldExp (255 - i)) ∧
  (∀ (s : State) (d a : EReg), s.validE a → s.valueE a = 0#8 → exec (.gfInv d a) s = .next (s.failed 0x07#8 1#32 0#32))

/-! ## Polynomials -/

/-- P.ZERO, P.ONE, P.MONO and P.LD complete with their polynomial in P[d] and nothing else (R87–R90). -/
def Obligations.PolynomialConstruction : Prop :=
  ∀ (s : State) (d : PReg) (a : EReg) (deg n : BitVec 12),
    exec (.pZero d) s = .next (s.wroteP d [0#8]) ∧
    exec (.pOne d) s = .next (s.wroteP d [1#8]) ∧
    (s.validE a → 0 ≤ deg.toInt → s.valueE a = 0#8 → exec (.pMono d a deg) s = .next (s.wroteP d [0#8])) ∧
    (s.validE a → 0 ≤ deg.toInt → deg.toInt ≤ 511 → s.valueE a ≠ 0#8 →
      exec (.pMono d a deg) s = .next (s.wroteP d (s.valueE a :: List.replicate deg.toNat 0#8))) ∧
    (1 ≤ n.toNat → n.toNat ≤ 512 → exec (.pLd d n) s = .next (s.wroteP d (canon ((List.range n.toNat).map s.lb))))

/-- P.DEG, P.ISZ, P.COEF and P.EVAL complete with the length less 1, the zero test, the coefficient of degree k, and the Horner value at any point (R91–R94). -/
def Obligations.PolynomialAccess : Prop :=
  ∀ (s : State) (d b : EReg) (a : PReg) (k : BitVec 12), s.validP a →
    exec (.pDeg a) s = .next { s with res := BitVec.ofNat 32 ((s.valueP a).length - 1), busy := false, done := true } ∧
    exec (.pIsz a) s = .next { s with res := if s.valueP a = [0#8] then 1#32 else 0#32, busy := false, done := true } ∧
    (0 ≤ k.toInt → k.toInt < (s.valueP a).length →
      exec (.pCoef d a k) s = .next (s.wroteE d (polyCoefficient (s.valueP a) k.toNat))) ∧
    (s.validE b → exec (.pEval d a b) s =
      .next (s.wroteE d ((s.valueP a).foldl (fun r c => gfMul fieldPoly (s.valueE b) r ^^^ c) 0#8)))

/-- P.ADD, P.MUL, P.MULS, P.MULM and P.DIV complete with padd, pmul, the scaled polynomial, pmulm, and quotient and remainder, and nothing else, on every operand whose result fits PMAX (R95–R99). -/
def Obligations.PolynomialArithmetic : Prop :=
  ∀ (s : State) (d r a b : PReg) (e : EReg) (deg : BitVec 12), s.validP a →
    (s.validP b → exec (.pAdd d a b) s = .next (s.wroteP d (padd (s.valueP a) (s.valueP b)))) ∧
    (s.validP b → s.valueP a = [0#8] ∨ s.valueP b = [0#8] → exec (.pMul d a b) s = .next (s.wroteP d [0#8])) ∧
    (s.validP b → (s.valueP a).length + (s.valueP b).length ≤ 513 →
      exec (.pMul d a b) s = .next (s.wroteP d (pmul fieldPoly (s.valueP a) (s.valueP b)))) ∧
    (s.validE e → exec (.pMuls d a e) s =
      .next (s.wroteP d (if s.valueE e = 0#8 then [0#8] else if s.valueE e = 1#8 then s.valueP a
        else canon ((s.valueP a).map (fun c => gfMul fieldPoly c (s.valueE e)))))) ∧
    (s.validE e → 0 ≤ deg.toInt → (pmulm fieldPoly (s.valueP a) (s.valueE e) deg.toNat).length ≤ 512 →
      exec (.pMulm d a e deg) s = .next (s.wroteP d (pmulm fieldPoly (s.valueP a) (s.valueE e) deg.toNat))) ∧
    (s.validP b → s.valueP b ≠ [0#8] → d ≠ r →
      exec (.pDiv d r a b) s =
        .next ((s.wroteP d (pdivmod fieldPoly (s.valueP a) (s.valueP b)).1).wroteP r (pdivmod fieldPoly (s.valueP a) (s.valueP b)).2))

/-- canon strips exactly the leading zeros, down to one coefficient: an all-zero list becomes [0], and a canonical list stays as it is (R81). -/
def Obligations.Canonicalisation : Prop :=
  (∀ cs : List Byte, cs ≠ [] → canonical (canon cs) ∧ ∃ k, k < cs.length ∧ canon cs = cs.drop k ∧
    (∀ j, j < k → cs.getD j 0#8 = 0#8) ∧ (k + 1 = cs.length ∨ cs.getD k 0#8 ≠ 0#8)) ∧
  (∀ n, 1 ≤ n → canon (List.replicate n 0#8) = [0#8]) ∧
  (∀ p : Poly, canonical p → canon p = p)

/-- The sum of canonical polynomials is canonical, no longer than the longer, with the field sums as coefficients; a polynomial plus itself is [0] (R82). -/
def Obligations.AdditionCoefficients : Prop :=
  ∀ a b : Poly, canonical a → canonical b →
    canonical (padd a b) ∧ (padd a b).length ≤ max a.length b.length ∧
    (∀ k, polyCoefficient (padd a b) k = polyCoefficient a k ^^^ polyCoefficient b k) ∧
    padd a a = [0#8] ∧ padd a b = padd b a ∧ padd a [0#8] = a ∧ padd [0#8] b = b

/-- The product of canonical polynomials is canonical with the convolution as coefficients; for nonzero operands it has exactly len(a) + len(b) − 1 of them; a zero operand gives [0] (R83). The scaled and shifted product has coefficient a_i ⊗ k at degree i + e, and L + e coefficients for nonzero operands; a zero factor gives [0] (R84). -/
def Obligations.ProductCoefficients : Prop :=
  (∀ a b : Poly, canonical a → canonical b →
    canonical (pmul fieldPoly a b) ∧
    (∀ k, polyCoefficient (pmul fieldPoly a b) k =
      (List.range (k + 1)).foldl (fun r i => r ^^^ gfMul fieldPoly (polyCoefficient a i) (polyCoefficient b (k - i))) 0#8) ∧
    (a ≠ [0#8] → b ≠ [0#8] → (pmul fieldPoly a b).length = a.length + b.length - 1) ∧
    (a = [0#8] ∨ b = [0#8] → pmul fieldPoly a b = [0#8]) ∧ pmul fieldPoly a b = pmul fieldPoly b a) ∧
  (∀ (a : Poly) (k : Byte) (e : Nat), canonical a →
    canonical (pmulm fieldPoly a k e) ∧
    (∀ j, polyCoefficient (pmulm fieldPoly a k e) j = if j < e then 0#8 else gfMul fieldPoly (polyCoefficient a (j - e)) k) ∧
    (a ≠ [0#8] → k ≠ 0#8 → (pmulm fieldPoly a k e).length = a.length + e) ∧
    (a = [0#8] ∨ k = 0#8 → pmulm fieldPoly a k e = [0#8]))

/-- Evaluation is a ring homomorphism at every point: sums go to sums, products to products, and a monomial c·x^e to c ⊗ x^e (R94, R72). -/
def Obligations.EvaluationHomomorphism : Prop :=
  ∀ (a b : Poly) (x c : Byte) (e : Nat), canonical a → canonical b →
    peval fieldPoly (padd a b) x = peval fieldPoly a x ^^^ peval fieldPoly b x ∧
    peval fieldPoly (pmul fieldPoly a b) x = gfMul fieldPoly (peval fieldPoly a x) (peval fieldPoly b x) ∧
    peval fieldPoly (c :: List.replicate e 0#8) x = gfMul fieldPoly c (fieldPower fieldPoly x e)

/-- Euclidean division of canonical polynomials by a nonzero one: a = q·b + r, r zero or shorter than b, both canonical, len(q) ≤ len(a) − len(b) + 1 and len(r) ≤ len(a) (R99). -/
def Obligations.EuclideanDivision : Prop :=
  ∀ a b : Poly, canonical a → canonical b → b ≠ [0#8] →
    a = padd (pmul fieldPoly (pdivmod fieldPoly a b).1 b) (pdivmod fieldPoly a b).2 ∧
    ((pdivmod fieldPoly a b).2 = [0#8] ∨ (pdivmod fieldPoly a b).2.length < b.length) ∧
    canonical (pdivmod fieldPoly a b).1 ∧ canonical (pdivmod fieldPoly a b).2 ∧
    (pdivmod fieldPoly a b).1.length ≤ a.length - b.length + 1 ∧ (pdivmod fieldPoly a b).2.length ≤ a.length ∧
    (a.length < b.length → pdivmod fieldPoly a b = ([0#8], a))

/-! ## Geometry -/

/-- T.QQ completes with times(sToQ, qToS) of the two quadrilaterals in T, TV set and nothing else, where all three transforms are finite; where one is not, it leaves GeometryError sub-cause 1 (R104, R107). -/
def Obligations.TransformBuild : Prop :=
  ∀ s : State,
    let qToS := adj (sq2q s.q[0] s.q[1] s.q[2] s.q[3] s.q[4] s.q[5] s.q[6] s.q[7])
    let sToQ := sq2q s.q[8] s.q[9] s.q[10] s.q[11] s.q[12] s.q[13] s.q[14] s.q[15]
    (qToS.allFinite = true → sToQ.allFinite = true → (times sToQ qToS).allFinite = true →
      exec .tQq s = .next { s with t := times sToQ qToS, tv := true, busy := false, done := true }) ∧
    (qToS.allFinite = false ∨ sToQ.allFinite = false ∨ (times sToQ qToS).allFinite = false →
      exec .tQq s = .next (s.failed 0x05#8 0x01000000#32 0#32))

/-- T.MAP n completes when T is valid, n ≤ 256 and every mapped point is finite: each of the n points of PT becomes its image under T, computed from the old points, and nothing else changes, no other byte of storage either (R105, R108). -/
def Obligations.PointMapping : Prop :=
  ∀ (s : State) (n : BitVec 12), s.mem.wf → s.tv = true → n.toNat ≤ 256 →
    (∀ p < n.toNat, finitePoint (mapPt s.t (s.pt (2 * p), s.pt (2 * p + 1))) = true) →
    ∃ t : State, exec (.tMap n) s = .next t ∧ t = { s with mem := t.mem, busy := false, done := true } ∧
      (∀ p < n.toNat, (t.pt (2 * p), t.pt (2 * p + 1)) = mapPt s.t (s.pt (2 * p), s.pt (2 * p + 1))) ∧
      ∀ a, ¬ (ptAddr 0 ≤ a ∧ a < ptAddr (2 * n.toNat)) → t.mem.read a = s.mem.read a

/-- Sum, difference, product and quotient of finite values are the exact result rounded to nearest with ties to even, subnormals kept, and finite whenever the exact result is below 2^1024 − 2^970 in magnitude (R11, R100). From there on they are the infinity of its sign: that clause is the model's choice, the overflow case of IEEE-754 that R100 does not spell out (PRESUMED, log entry 8). -/
def Obligations.RoundsToNearest : Prop :=
  ∀ a b : F64, finite a = true → finite b = true →
    roundsTo (fadd a b) (realValue a + realValue b) ∧
    roundsTo (fsub a b) (realValue a - realValue b) ∧
    roundsTo (fmul a b) (realValue a * realValue b) ∧
    (realValue b ≠ 0 → roundsTo (fdiv a b) (realValue a / realValue b))

/-- Division by ±0 gives an infinity for a nonzero finite numerator and a NaN for a zero or NaN one; a NaN operand gives a NaN; v = 0.0 holds of +0 and −0 alone; floor of a finite value is the mathematical floor; a finite value converts to itself (R11, R100). -/
def Obligations.BinaryCorners : Prop :=
  (∀ a b : F64, isZeroF b = true → finite a = true → isZeroF a = false → ∃ neg, unpack (fdiv a b) = .inf neg) ∧
  (∀ a b : F64, isZeroF b = true → isZeroF a = true ∨ unpack a = .nan → unpack (fdiv a b) = .nan) ∧
  (∀ a b : F64, unpack a = .nan ∨ unpack b = .nan →
    unpack (fadd a b) = .nan ∧ unpack (fsub a b) = .nan ∧ unpack (fmul a b) = .nan ∧ unpack (fdiv a b) = .nan) ∧
  (∀ v : F64, isZeroF v = true ↔ finite v = true ∧ realValue v = 0) ∧
  (∀ v : F64, finite v = true → ffloor v = ⌊realValue v⌋) ∧
  (∀ (v : F64) (neg : Bool) (mant : Nat) (exp : Int), unpack v = .fin neg mant exp → roundRatio neg mant 1 exp = v) ∧
  (∀ n : Nat, n ≤ 2 ^ 53 → finite (fofNat n) = true ∧ realValue (fofNat n) = n)

/-! ## The sampler and the matrix -/

/-- S.NUDGE n completes when n ≤ 256, the image size is legal and the nudge of the n points does not fail: PT holds the nudged points and no other byte changes. S.GRID and S.QUAD complete when their transform, dimension and image are legal and the sampling does not fail: a new matrix with cleared memos, and for S.QUAD the transform built from Q (R113–R116). -/
def Obligations.SamplerCommands : Prop :=
  ∀ (s : State) (n dim : BitVec 12), 1 ≤ s.imgW.toNat → s.imgW.toNat ≤ 2048 → 1 ≤ s.imgH.toNat → s.imgH.toNat ≤ 2048 →
    (∀ pts, s.mem.wf → n.toNat ≤ 256 → nudge s.imgW.toNat s.imgH.toNat 0 (s.points n.toNat) = .ok pts →
      ∃ t : State, exec (.sNudge n) s = .next t ∧ t = { s with mem := t.mem, busy := false, done := true } ∧
        t.points n.toNat = pts ∧ ∀ a, ¬ (ptAddr 0 ≤ a ∧ a < ptAddr (2 * n.toNat)) → t.mem.read a = s.mem.read a) ∧
    (∀ m, 21 ≤ dim.toNat → dim.toNat ≤ 177 → dim.toNat % 4 = 1 → s.tv = true → sample s s.t dim.toNat = .ok m →
      exec (.sGrid dim) s =
        .next { s with bm := m, bmDim := dim.setWidth 32, fmt := 0#32, ver := 0#32, busy := false, done := true }) ∧
    (∀ m g, 21 ≤ dim.toNat → dim.toNat ≤ 177 → dim.toNat % 4 = 1 → build s.q = .ok g → sample s g dim.toNat = .ok m →
      exec (.sQuad dim) s =
        .next { s with t := g, tv := true, bm := m, bmDim := dim.setWidth 32, fmt := 0#32, ver := 0#32, busy := false, done := true })

/-- What the nudge does to points that pass: a coordinate stays, or goes from floor −1 to 0.0, or from floor W (H) to W − 1 (H − 1); the first and the last point end inside the image; points that all lie inside stay. Each scan stops at the first point that needs no nudge: the nudge passes exactly when every point is finite and no point that a scan comes to is out of reach; the points that a scan comes to are nudged in both axes, the points between the stops are neither checked nor changed. It fails with sub-cause 2 at the first point that is not finite, else with sub-cause 3 at the first out of reach, from the front and then from the back (R111). -/
def Obligations.NudgeRule : Prop :=
  ∀ (w h row : Nat) (pts : List Point), 1 ≤ w → w ≤ 2048 → 1 ≤ h → h ≤ 2048 →
    (∀ out, nudge w h row pts = .ok out →
      out.length = pts.length ∧
      ∀ (p : Nat) (hp : p < pts.length) (hq : p < out.length),
        (out[p].1 = pts[p].1 ∨ (ffloor pts[p].1 = -1 ∧ out[p].1 = fzero) ∨ (ffloor pts[p].1 = w ∧ out[p].1 = fofNat (w - 1))) ∧
        (out[p].2 = pts[p].2 ∨ (ffloor pts[p].2 = -1 ∧ out[p].2 = fzero) ∨ (ffloor pts[p].2 = h ∧ out[p].2 = fofNat (h - 1))) ∧
        (scanned w h pts p → nudgedTo w pts[p].1 out[p].1 ∧ nudgedTo h pts[p].2 out[p].2) ∧
        (¬ scanned w h pts p → out[p] = pts[p]) ∧
        finitePoint out[p] = true ∧
        (p = 0 ∨ p + 1 = pts.length → insideImage w h out[p])) ∧
    ((∀ pt ∈ pts, finitePoint pt = true ∧ insideImage w h pt) → nudge w h row pts = .ok pts) ∧
    ((∃ out, nudge w h row pts = .ok out) ↔ (∀ pt ∈ pts, finitePoint pt = true) ∧ ∀ p, ¬ scanFails w h pts p) ∧
    (∀ p, firstNonFinite pts p → nudge w h row pts = .error ⟨.geometry, BitVec.ofNat 32 (2 * 2 ^ 24 + p), BitVec.ofNat 32 row⟩) ∧
    (∀ p, (∀ pt ∈ pts, finitePoint pt = true) → scanFails w h pts p →
      nudge w h row pts = .error ⟨.geometry, BitVec.ofNat 32 (3 * 2 ^ 24 + p), BitVec.ofNat 32 row⟩)

/-- Sampling succeeds exactly when the nudge of every row passes and leaves every point inside the image. The matrix then holds at (x, y), inside its dimension, the pixel that the nudged image of the cell centre floors to, and 0 everywhere else (R112, R49). -/
def Obligations.SampledMatrix : Prop :=
  ∀ (s : State) (t : Transform) (dim : Nat), dim ≤ 177 →
    ((∃ m, sample s t dim = .ok m) ↔ ∀ y < dim, rowPasses s t dim y) ∧
    ∀ m : BitMatrix, sample s t dim = .ok m →
      (∀ y < dim, ∃ pts : List Point,
        nudge s.imgW.toNat s.imgH.toNat y (gridPoints t dim y) = .ok pts ∧
        pts.length = dim ∧ ∀ (x : Nat) (hx : x < pts.length),
          insideImage s.imgW.toNat s.imgH.toNat pts[x] ∧
          m.get x y = s.pix ((ffloor pts[x].1).toNat + s.imgW.toNat * (ffloor pts[x].2).toNat)) ∧
      (∀ x y, dim ≤ x ∨ dim ≤ y → m.get x y = false)

/-- A successful S.QUAD is a successful T.QQ followed by a successful S.GRID, and the other way round, for a legal dimension and image (R116). -/
def Obligations.QuadIsBuildThenGrid : Prop :=
  ∀ (s t : State) (dim : BitVec 12), s.err = false → dimOK dim.toNat = true → imgOK s = true →
    ((exec (.sQuad dim) s = .next t ∧ t.err = false) ↔
      ∃ u : State, exec .tQq s = .next u ∧ u.err = false ∧ exec (.sGrid dim) u = .next t ∧ t.err = false)

/-- S.GRID and S.QUAD depend on PIX through the image's own pixels alone: storage that agrees on PIX[0 .. IMG_W·IMG_H − 1] gives the same outcome (R49, R168). -/
def Obligations.SamplingReadsOnlyTheImage : Prop :=
  ∀ (s t : State) (m : Memory) (dim : BitVec 12),
    (∀ k < s.imgW.toNat * s.imgH.toNat, ({ s with mem := m } : State).pix k = s.pix k) →
    (exec (.sGrid dim) s = .next t → exec (.sGrid dim) { s with mem := m } = .next { t with mem := m }) ∧
    (exec (.sQuad dim) s = .next t → exec (.sQuad dim) { s with mem := m } = .next { t with mem := m })

/-- The failures of T.MAP, S.NUDGE, S.GRID, S.QUAD and M.INIT, in the order their rules check them, and of every command that needs a matrix or a module inside it, each leaving the error record alone: for the sampler also sub-cause 3 of S.NUDGE at the first point out of reach, sub-cause 1 of S.QUAD where the build gives a coefficient that is not finite, and sub-causes 2, 3 and 4 of S.GRID and S.QUAD in the first row that fails, with the column in ERRINFO0 and the row in ERRINFO1 (R104, R108–R119, R129–R133, R148). -/
def Obligations.GeometryAndMatrixTraps : Prop :=
  (∀ (s : State) (n : BitVec 12),
    (s.tv = false → exec (.tMap n) s = .next (s.failed 0x09#8 0x300#32 0#32) ∧
      exec (.sGrid n) s = .next (s.failed 0x09#8 0x300#32 0#32)) ∧
    (s.tv = true → 256 < n.toNat → exec (.tMap n) s = .next (s.failed 0x0A#8 4#32 0#32)) ∧
    (∀ p < n.toNat, s.tv = true → n.toNat ≤ 256 →
      (∀ j < p, finitePoint (mapPt s.t (s.pt (2 * j), s.pt (2 * j + 1))) = true) →
      finitePoint (mapPt s.t (s.pt (2 * p), s.pt (2 * p + 1))) = false →
      exec (.tMap n) s = .next (s.failed 0x05#8 (0x02000000#32 + BitVec.ofNat 32 p) 0#32)) ∧
    (256 < n.toNat → exec (.sNudge n) s = .next (s.failed 0x0A#8 4#32 0#32)) ∧
    (n.toNat ≤ 256 → imgOK s = false → exec (.sNudge n) s = .next (s.failed 0x0A#8 2#32 0#32)) ∧
    (∀ p < n.toNat, n.toNat ≤ 256 → imgOK s = true →
      (∀ j < p, finitePoint (s.pt (2 * j), s.pt (2 * j + 1)) = true) → finitePoint (s.pt (2 * p), s.pt (2 * p + 1)) = false →
      exec (.sNudge n) s = .next (s.failed 0x05#8 (0x02000000#32 + BitVec.ofNat 32 p) 0#32)) ∧
    (∀ p, n.toNat ≤ 256 → imgOK s = true → (∀ pt ∈ s.points n.toNat, finitePoint pt = true) →
      scanFails s.imgW.toNat s.imgH.toNat (s.points n.toNat) p →
      exec (.sNudge n) s = .next (s.failed 0x05#8 (0x03000000#32 + BitVec.ofNat 32 p) 0#32)) ∧
    (dimOK n.toNat = false → (s.tv = true → exec (.sGrid n) s = .next (s.failed 0x01#8 (n.setWidth 32) 0#32)) ∧
      exec (.sQuad n) s = .next (s.failed 0x01#8 (n.setWidth 32) 0#32)) ∧
    (dimOK n.toNat = true → imgOK s = false → (s.tv = true → exec (.sGrid n) s = .next (s.failed 0x0A#8 2#32 0#32)) ∧
      exec (.sQuad n) s = .next (s.failed 0x0A#8 2#32 0#32))) ∧
  (∀ (s : State) (dim : BitVec 12), dimOK dim.toNat = true → imgOK s = true →
    (let qToS := adj (sq2q s.q[0] s.q[1] s.q[2] s.q[3] s.q[4] s.q[5] s.q[6] s.q[7])
     let sToQ := sq2q s.q[8] s.q[9] s.q[10] s.q[11] s.q[12] s.q[13] s.q[14] s.q[15]
     let t := times sToQ qToS
     (qToS.allFinite = false ∨ sToQ.allFinite = false ∨ t.allFinite = false →
       exec (.sQuad dim) s = .next (s.failed 0x05#8 0x01000000#32 0#32)) ∧
     ∀ y cause col, y < dim.toNat → qToS.allFinite = true → sToQ.allFinite = true → t.allFinite = true →
       (∀ k < y, rowPasses s t dim.toNat k) → rowFails s t dim.toNat y cause col →
       exec (.sQuad dim) s = .next (s.failed 0x05#8 (BitVec.ofNat 32 (cause * 2 ^ 24 + col)) (BitVec.ofNat 32 y))) ∧
    ∀ y cause col, s.tv = true → y < dim.toNat →
      (∀ k < y, rowPasses s s.t dim.toNat k) → rowFails s s.t dim.toNat y cause col →
      exec (.sGrid dim) s = .next (s.failed 0x05#8 (BitVec.ofNat 32 (cause * 2 ^ 24 + col)) (BitVec.ofNat 32 y))) ∧
  (∀ (s : State) (dim : BitVec 12) (x y : Byte) (m : BitVec 3),
    (dim.toNat < 21 ∨ 177 < dim.toNat ∨ dim.toNat % 4 ≠ 1 →
      exec (.mInit dim) s = .next (s.failed 0x01#8 (dim.setWidth 32) 0#32)) ∧
    (s.bmDim = 0#32 → ∀ i ∈ [Instr.mSet x y, .mGet x y, .dRdbit x y, .dFmt, .dVer, .dUnmask m, .dCw],
      exec i s = .next (s.failed 0x09#8 0x400#32 0#32)) ∧
    (s.bmDim ≠ 0#32 → s.bmDim.toNat ≤ x.toNat ∨ s.bmDim.toNat ≤ y.toNat →
      ∀ i ∈ [Instr.mSet x y, .mGet x y, .dRdbit x y], exec i s = .next (s.failed 0x0A#8 5#32 0#32)))

/-- M.INIT creates an all-zero matrix with cleared memos, M.SET sets one module, M.GET reads one into RES, and nothing else changes (R113, R117–R119). -/
def Obligations.MatrixCommands : Prop :=
  (∀ (s : State) (dim : BitVec 12), 21 ≤ dim.toNat → dim.toNat ≤ 177 → dim.toNat % 4 = 1 →
    ∃ t : State, exec (.mInit dim) s = .next t ∧
      t = { s with bm := t.bm, bmDim := dim.setWidth 32, fmt := 0#32, ver := 0#32, busy := false, done := true } ∧
      ∀ x y, t.bm.get x y = false) ∧
  (∀ (s : State) (x y : Byte), s.bmDim.toNat ≤ 177 → x.toNat < s.bmDim.toNat → y.toNat < s.bmDim.toNat →
    (∃ t : State, exec (.mSet x y) s = .next t ∧ t = { s with bm := t.bm, busy := false, done := true } ∧
      ∀ i j, i < 177 → j < 177 → t.bm.get i j = (decide (i = x.toNat ∧ j = y.toNat) || s.bm.get i j)) ∧
    exec (.mGet x y) s =
      .next { s with res := if s.bm.get x.toNat y.toNat then 1#32 else 0#32, busy := false, done := true })

/-! ## The decoder -/

/-- D.NEW clears FMT, VER and ACC; D.RDBIT shifts one module into ACC; nothing else changes (R128, R129). A field read from a list of at most 32 positions has the first position in its most significant bit, the last in bit 0, and 0 above (R121). -/
def Obligations.FieldReads : Prop :=
  (∀ (s : State) (x y : Byte),
    exec .dNew s = .next { s with fmt := 0#32, ver := 0#32, acc := 0#32, busy := false, done := true } ∧
    (x.toNat < s.bmDim.toNat → y.toNat < s.bmDim.toNat →
      exec (.dRdbit x y) s =
        .next { s with acc := (s.acc <<< 1) ||| (if s.bm.get x.toNat y.toNat then 1#32 else 0#32), busy := false, done := true })) ∧
  (∀ (m : BitMatrix) (positions : List (Nat × Nat)), positions.length ≤ 32 →
    ∀ k, (readField m positions).getLsbD k =
      (decide (k < positions.length) &&
        m.get (positions.getD (positions.length - 1 - k) (0, 0)).1 (positions.getD (positions.length - 1 - k) (0, 0)).2))

/-- D.FMT on a matrix: nothing is read when FV = 1; else location A decides if it decodes, else location B, and FMT is FV with the datum; else FormatDecodeError with both words (R122, R123, R130). -/
def Obligations.FormatResolution : Prop :=
  ∀ s : State, s.bmDim ≠ 0#32 →
    let bitsA := readField s.bm formatA
    let bitsB := readField s.bm (formatB s.bmDim.toNat)
    (s.fv = true → exec .dFmt s = .next { s with busy := false, done := true }) ∧
    (∀ r, s.fv = false → formatDecode (bitsA.setWidth 15) = some r →
      exec .dFmt s = .next { s with fmt := 0x80000000#32 ||| r.setWidth 32, busy := false, done := true }) ∧
    (∀ r, s.fv = false → formatDecode (bitsA.setWidth 15) = none → formatDecode (bitsB.setWidth 15) = some r →
      exec .dFmt s = .next { s with fmt := 0x80000000#32 ||| r.setWidth 32, busy := false, done := true }) ∧
    (s.fv = false → formatDecode (bitsA.setWidth 15) = none → formatDecode (bitsB.setWidth 15) = none →
      exec .dFmt s = .next (s.failed 0x02#8 bitsA bitsB))

/-- D.VER on a matrix: nothing is read when VV = 1 or below dimension 45; else block TR decides if it names the version of this dimension, else block BL, else VersionDecodeError with both words (R124, R125, R131, R137). -/
def Obligations.VersionResolution : Prop :=
  ∀ s : State, s.bmDim ≠ 0#32 →
    let d := s.bmDim.toNat
    let bitsTR := readField s.bm (versionTR d)
    let bitsBL := readField s.bm (versionBL d)
    (s.vv = true → exec .dVer s = .next { s with busy := false, done := true }) ∧
    (s.vv = false → d < 45 →
      exec .dVer s = .next { s with ver := 0x80000000#32 ||| BitVec.ofNat 32 ((d - 17) / 4), busy := false, done := true }) ∧
    (∀ v, s.vv = false → 45 ≤ d → versionDecode (bitsTR.setWidth 18) = some v → 17 + 4 * v = d →
      exec .dVer s = .next { s with ver := 0x80000000#32 ||| BitVec.ofNat 32 v, busy := false, done := true }) ∧
    (∀ v, s.vv = false → 45 ≤ d → (∀ u, versionDecode (bitsTR.setWidth 18) = some u → 17 + 4 * u ≠ d) →
      versionDecode (bitsBL.setWidth 18) = some v → 17 + 4 * v = d →
      exec .dVer s = .next { s with ver := 0x80000000#32 ||| BitVec.ofNat 32 v, busy := false, done := true }) ∧
    (s.vv = false → 45 ≤ d → (∀ u, versionDecode (bitsTR.setWidth 18) = some u → 17 + 4 * u ≠ d) →
      (∀ u, versionDecode (bitsBL.setWidth 18) = some u → 17 + 4 * u ≠ d) →
      exec .dVer s = .next (s.failed 0x03#8 bitsTR bitsBL))

/-- FORMAT_DECODE gives the datum of every word within distance 3 of a stored code; where no stored code is that near, of every word that is within 3 of one once 0x5412 is removed (the second lookup); and fails where neither holds. VERSION_DECODE gives the version of every word within 3 of a code and fails elsewhere (R134, R136). -/
def Obligations.CodesCorrectThreeErrors : Prop :=
  (∀ (r : BitVec 5) (w : BitVec 15), popcount (w ^^^ fmtCodes.getD r.toNat 0#15) ≤ 3 → formatDecode w = some r) ∧
  (∀ (r : BitVec 5) (w : BitVec 15), (∀ k : BitVec 5, 3 < popcount (w ^^^ fmtCodes.getD k.toNat 0#15)) →
    popcount (w ^^^ 0x5412#15 ^^^ fmtCodes.getD r.toNat 0#15) ≤ 3 → formatDecode w = some r) ∧
  (∀ (r : BitVec 5) (w : BitVec 15), formatDecode w = some r →
    popcount (w ^^^ fmtCodes.getD r.toNat 0#15) ≤ 3 ∨ popcount (w ^^^ 0x5412#15 ^^^ fmtCodes.getD r.toNat 0#15) ≤ 3) ∧
  (∀ (k : Nat) (w : BitVec 18), k < 34 → popcount (w ^^^ verCodes.getD k 0#18) ≤ 3 → versionDecode w = some (k + 7)) ∧
  (∀ (v : Nat) (w : BitVec 18), versionDecode w = some v →
    7 ≤ v ∧ v ≤ 40 ∧ popcount (w ^^^ verCodes.getD (v - 7) 0#18) ≤ 3)

/-- D.UNMASK m flips exactly the modules of the d × d matrix where MASK(m, row, column) holds and changes nothing else; applied twice it restores BM (R126, R132). -/
def Obligations.UnmaskInvolution : Prop :=
  ∀ (s : State) (m : BitVec 3), s.bmDim ≠ 0#32 → s.bmDim.toNat ≤ 177 →
    exec (.dUnmask m) s = .next { s with bm := unmask standard s.bm m s.bmDim.toNat, busy := false, done := true } ∧
    (∀ x y, x < 177 → y < 177 → (unmask standard s.bm m s.bmDim.toNat).get x y =
      (s.bm.get x y != (decide (x < s.bmDim.toNat) && decide (y < s.bmDim.toNat) && maskBit m y x))) ∧
    unmask standard (unmask standard s.bm m s.bmDim.toNat) m s.bmDim.toNat = s.bm

/-- The serpentine walk visits every module of every column but column 6 exactly once, in this order: the column pairs from the right, column 6 skipped; in the first pair the rows bottom to top, the direction alternating; in a row the right column before the left. The bits it reads outside the function pattern fill the codewords in that order, most significant bit first (R127). -/
def Obligations.WalkCoversTheMatrix : Prop :=
  (∀ v, 1 ≤ v → v ≤ 40 → (walkPositions (dimension v)).Nodup ∧
    (∀ x y, (x, y) ∈ walkPositions (dimension v) ↔ x < dimension v ∧ y < dimension v ∧ x ≠ 6) ∧
    (walkPositions (dimension v)).length = dimension v * (dimension v - 1) ∧
    ∀ pair row side : Nat, pair < (dimension v - 1) / 2 → row < dimension v → side < 2 →
      (walkPositions (dimension v)).getD (2 * dimension v * pair + 2 * row + side) (0, 0) =
        ((if 6 < dimension v - 1 - 2 * pair then dimension v - 1 - 2 * pair else dimension v - 2 - 2 * pair) - side,
         if pair % 2 = 0 then dimension v - 1 - row else row)) ∧
  ∀ (c : Configuration) (bm : BitMatrix) (v d : Nat),
    let read := (walkPositions d).filter (fun p => !c.functionModule v p.1 p.2)
    (walk c bm v d).length = read.length / 8 ∧
    ∀ n b, n < read.length / 8 → b < 8 →
      ((walk c bm v d).getD n 0#8).getLsbD b = bm.get (read.getD (8 * n + 7 - b) (0, 0)).1 (read.getD (8 * n + 7 - b) (0, 0)).2

/-- Under the default tables, which this hardware takes (R5, log entry 12), the walk of every version gives as many codewords as TOTAL_CODEWORDS says, so no D.CW ever raises CodewordCountError (R142). Under any configuration that R5 allows, a D.CW whose format and version resolve raises it exactly when the walk gives another count, with the two counts in the record and nothing committed (R133). -/
def Obligations.TablesAgree : Prop :=
  (∀ (v : Nat) (bm : BitMatrix), 1 ≤ v → v ≤ 40 → (walk standard bm v (dimension v)).length = totalCodewords v) ∧
  (∀ s t : State, s.Inv → s.err = false → exec .dCw s = .next t → t.errCode ≠ 0x04#8) ∧
  ∀ (c : Configuration) (s : State) (f : Word) (v : Nat), LegalConfiguration c → 1 ≤ v → v ≤ 40 → s.bmDim.toNat = dimension v →
    readFmt c s (dimension v) = .ok f → readVer c s (dimension v) = .ok (verWord v) →
    let bm := unmask c s.bm (f.extractLsb' 0 3) (dimension v)
    let out := walk c bm v (dimension v)
    (out.length ≠ c.totalCodewords v →
      execWith c .dCw s = .next (s.failed 0x04#8 (BitVec.ofNat 32 out.length) (BitVec.ofNat 32 (c.totalCodewords v)))) ∧
    (out.length = c.totalCodewords v →
      execWith c .dCw s = .next { s with
        fmt := f, ver := verWord v, bm := bm, mem := s.mem.writeBytes (cwAddr 0) out
        cwCount := BitVec.ofNat 32 (c.totalCodewords v), busy := false, done := true })

/-- D.CW completes whenever a matrix exists and its format and version resolve: FMT, VER, the unmasked BM, CW_COUNT and the codewords of the walk, byte n at its own place, no other byte of storage, nothing else. Where the format does not resolve it leaves FormatDecodeError with the words of both locations, whatever the version; where the format does and the version does not, VersionDecodeError with the words of both blocks (R123, R125, R133, R148). -/
def Obligations.CodewordExtraction : Prop :=
  (∀ (s : State) (f : Word) (v : Nat), 1 ≤ v → v ≤ 40 → s.bmDim.toNat = dimension v → s.mem.wf →
    readFmt standard s (dimension v) = .ok f → readVer standard s (dimension v) = .ok (verWord v) →
    ∃ t : State, exec .dCw s = .next t ∧
      t = { s with
        fmt := f, ver := verWord v, bm := unmask standard s.bm (f.extractLsb' 0 3) (dimension v), mem := t.mem
        cwCount := BitVec.ofNat 32 (totalCodewords v), busy := false, done := true } ∧
      (∀ n < totalCodewords v, t.cw n = (walk standard (unmask standard s.bm (f.extractLsb' 0 3) (dimension v)) v (dimension v)).getD n 0#8) ∧
      ∀ a, ¬ (cwAddr 0 ≤ a ∧ a < cwAddr (totalCodewords v)) → t.mem.read a = s.mem.read a) ∧
  (∀ s : State, s.bmDim ≠ 0#32 →
    let d := s.bmDim.toNat
    let bitsA := readField s.bm formatA
    let bitsB := readField s.bm (formatB d)
    let bitsTR := readField s.bm (versionTR d)
    let bitsBL := readField s.bm (versionBL d)
    (s.fv = false → formatDecode (bitsA.setWidth 15) = none → formatDecode (bitsB.setWidth 15) = none →
      exec .dCw s = .next (s.failed 0x02#8 bitsA bitsB)) ∧
    (s.fv = true ∨ formatDecode (bitsA.setWidth 15) ≠ none ∨ formatDecode (bitsB.setWidth 15) ≠ none →
      s.vv = false → 45 ≤ d → (∀ u, versionDecode (bitsTR.setWidth 18) = some u → 17 + 4 * u ≠ d) →
      (∀ u, versionDecode (bitsBL.setWidth 18) = some u → 17 + 4 * u ≠ d) →
      exec .dCw s = .next (s.failed 0x03#8 bitsTR bitsBL)))

/-- A failed D.CW leaves BM; after a successful one D.UNMASK with MASKID gives back the matrix from before it, and a second D.CW directly after the first does too and reads the masked bits (R166). -/
def Obligations.UnmaskAfterCodewords : Prop :=
  ∀ s t u : State, s.err = false → s.mem.wf → exec .dCw s = .next t →
    (t.err = true → t.bm = s.bm) ∧
    (t.err = false → exec (.dUnmask t.maskId) t = .next u → u.bm = s.bm) ∧
    (t.err = false → exec .dCw t = .next u → u.err = false → u.bm = s.bm ∧
      ∀ n < u.cwCount.toNat, u.cw n = (walk standard s.bm t.version t.bmDim.toNat).getD n 0#8)

end
end

