-- ==== Sys2Proof/Laws/Configured.lean ====
section
/-! SUPPORT. The configured machine at the default configuration is this hardware, and that configuration keeps the constraints of 00_scope.md R5. -/

namespace Sys2Proof.Machine

/-- Under the default configuration every command is the one of this hardware. -/
@[simp] theorem execWith_standard (i : Instr) (s : State) : execWith standard i s = exec i s := by
  cases i <;> rfl

/-- Under the default configuration a host read is the one of this hardware. -/
@[simp] theorem hostReadWith_standard (a : BitVec 19) (s : State) : hostReadWith standard a s = hostRead a s := by
  by_cases h : target (byteAddr a) = .id
  · simp [hostReadWith, hostRead, h, standard, readTarget]
  · simp [hostReadWith, h]

/-- Under the default configuration a step is the one of this hardware. -/
@[simp] theorem stepWith_standard (s : State) : stepWith standard s = step s := by
  have he : execWith standard = exec := funext fun i => funext (execWith_standard i)
  have hr : hostReadWith standard = hostRead := funext fun a => funext (hostReadWith_standard a)
  rw [stepWith, he, hr, step]
  rfl

/-- The machine the host is given is the configured one at the default configuration. -/
theorem coreWith_standard : coreWith standard = Sys2Proof.core := by
  simp [coreWith, Sys2Proof.core, funext stepWith_standard]

/-! The constraints of R5 hold of the default configuration. -/

/-- The default FIELD_POLY is irreducible (R70, R72). -/
theorem fieldPoly_irreducible : irreducibleDegree8 fieldPoly := ⟨by decide, by decide +kernel⟩

/-- What a code search answers is in the table, or was the nearest before it (R134, R136). -/
theorem nearestCode_mem {w : Nat} {α : Type} (x : BitVec w) (table : List (BitVec w × α)) (best : Option (Nat × α)) (a : α)
    (h : nearestCode x table best = some a) : (∃ code, (code, a) ∈ table) ∨ ∃ dist, best = some (dist, a) := by
  induction table generalizing best with
  | nil =>
    cases best with
    | none => cases h
    | some b =>
      simp only [nearestCode] at h
      split at h
      · exact .inr ⟨b.1, by rw [← Option.some.inj h]⟩
      · cases h
  | cons c rest ih =>
    have keep : (∃ code, (code, a) ∈ rest) → ∃ code, (code, a) ∈ c :: rest := fun ⟨code, hc⟩ => ⟨code, .tail _ hc⟩
    simp only [nearestCode] at h
    split at h
    · exact .inl ⟨c.1, by rw [← Option.some.inj h]; exact .head _⟩
    · split at h
      · rcases ih _ h with hr | ⟨dist, hd⟩
        · exact .inl (keep hr)
        · exact .inl ⟨c.1, by rw [← (Prod.mk.inj (Option.some.inj hd)).2]; exact .head _⟩
      · rcases ih _ h with hr | ⟨dist, hd⟩
        · exact .inl (keep hr)
        · split at hd
          · exact .inl ⟨c.1, by rw [← (Prod.mk.inj (Option.some.inj hd)).2]; exact .head _⟩
          · exact .inr ⟨_, hd⟩

/-- The versions of VER_TABLE (R136). -/
theorem verTable_versions : ∀ c ∈ verTable, 7 ≤ c.2 ∧ c.2 ≤ Config.vmax := by decide +kernel

/-- Every alignment pattern lies inside its version's matrix (R139, R141). -/
theorem alignCentres_inside : ∀ v < 41, ∀ a ∈ alignCentres v, a - 2 + 5 ≤ dimension v := by decide +kernel

theorem inSpan_iff (l w x : Nat) : inSpan l w x = true ↔ l ≤ x ∧ x < l + w := by
  simp [inSpan]

/-- A module of an alignment pattern lies inside its version's matrix (R140). -/
theorem inAlignment_inside (v x y : Nat) (hv : v ≤ Config.vmax) (h : inAlignment v x y = true) : x < dimension v ∧ y < dimension v := by
  simp only [inAlignment, List.any_eq_true, Bool.and_eq_true, inSpan_iff] at h
  obtain ⟨a, ha, hy, b, hb, ⟨hx, -⟩⟩ := h
  have hc := alignCentres_inside v (by simpa [Nat.lt_succ_iff] using hv)
  have h1 := hc a.1 (List.fst_mem_of_mem_zipIdx ha)
  have h2 := hc b.1 (List.fst_mem_of_mem_zipIdx hb)
  omega

/-- A function module lies inside its version's matrix (R140). -/
theorem functionModule_inside (v x y : Nat) (h1 : 1 ≤ v) (hv : v ≤ Config.vmax) (h : functionModule v x y = true) :
    x < dimension v ∧ y < dimension v := by
  simp only [functionModule, inRegion, Bool.or_eq_true, Bool.and_eq_true, inSpan_iff] at h
  rcases h with h | h
  · simp only [dimension] at h ⊢
    omega
  · exact inAlignment_inside v x y hv h

/-- The default configuration is legal (R5). -/
theorem standard_legal : LegalConfiguration standard where
  field := fieldPoly_irreducible
  totals := by
    have h : ∀ v < 41, totalCodewords v ≤ Config.cwmax := by decide +kernel
    exact fun v _ hv => h v (Nat.lt_succ_of_le hv)
  pattern := functionModule_inside
  versions := fun w v h => by
    rcases nearestCode_mem w verTable none v h with ⟨code, hc⟩ | ⟨_, hb⟩
    · exact verTable_versions _ hc
    · cases hb

end Sys2Proof.Machine
end

