-- ==== Sys2Proof/Laws/Matrix.lean ====
section
/-! SUPPORT. The laws of the bit matrix: what one module reads as after each operation, and that a matrix is determined by its 177 × 177 modules. -/

namespace Sys2Proof.Machine

theorem rowOf_getLsbD (f : Nat → Bool) (n x : Nat) :
    (rowOf f n).getLsbD x = (decide (x < n) && decide (x < 177) && f x) := by
  induction n with
  | zero => simp [rowOf]
  | succ n ih =>
    have key : (rowOf f (n + 1)).getLsbD x = ((rowOf f n).getLsbD x || (f n && (decide (x < 177) && decide (n = x)))) := by
      cases hf : f n <;> simp [rowOf, hf, BitVec.getLsbD_or, BitVec.getLsbD_twoPow]
      rcases lt_or_ge n 177 with h | h
      · by_cases hx : n = x
        · subst hx; simp [h]
        · simp [hx]
      · by_cases hx : n = x
        · subst hx; simp [not_lt.2 h]
        · simp [hx]
    rw [key, ih]
    by_cases hx : n = x
    · subst hx; cases f n <;> simp
    · have : decide (x ≤ n) = decide (x < n) := by
        apply decide_eq_decide.2; omega
      simp [hx, this]

theorem BitMatrix.get_false_of_row (m : BitMatrix) (x y : Nat) (h : 177 ≤ y) : m.get x y = false := by
  simp only [BitMatrix.get]
  rw [BitVec.getLsbD_of_ge _ _ (by omega)]
  simp

@[simp] theorem BitMatrix.get_zero (x y : Nat) : (⟨0#31329⟩ : BitMatrix).get x y = false := by
  simp [BitMatrix.get]

/-- Module (x, y) of a matrix built from rows. -/
theorem matrixOf_get (g : Nat → BitVec 177) (n x y : Nat) :
    (matrixOf g n).get x y = (decide (y < n) && decide (y < 177) && (g y).getLsbD x) := by
  rcases Nat.lt_or_ge x 177 with hx | hx
  swap
  · have : (g y).getLsbD x = false := BitVec.getLsbD_of_ge _ _ hx
    simp [BitMatrix.get, not_lt.2 hx, this]
  rcases Nat.lt_or_ge y 177 with hy | hy
  swap
  · rw [BitMatrix.get_false_of_row _ _ _ hy]; simp [not_lt.2 hy]
  induction n with
  | zero => simp [matrixOf]
  | succ n ih =>
    have key : (matrixOf g (n + 1)).get x y = ((matrixOf g n).get x y || (decide (y = n) && (g n).getLsbD x)) := by
      simp only [BitMatrix.get, matrixOf, BitVec.getLsbD_or, BitVec.getLsbD_shiftLeft, BitVec.getLsbD_setWidth]
      have hi : 177 * y + x < 31329 := by omega
      by_cases h : y = n
      · subst h
        have e : 177 * y + x - 177 * y = x := by omega
        have n1 : ¬ (177 * y + x < 177 * y) := by omega
        have n2 : x < 31329 := by omega
        simp [hx, hi, n2]
      · rcases lt_or_gt_of_ne h with h' | h'
        · have : 177 * y + x < 177 * n := by omega
          simp [hx, h, this]
        · have : (g n).getLsbD (177 * y + x - 177 * n) = false := BitVec.getLsbD_of_ge _ _ (by omega)
          simp [hx, h, this]
    rw [key, ih]
    by_cases h : y = n
    · subst h; simp [hy]
    · have : decide (y ≤ n) = decide (y < n) := by apply decide_eq_decide.2; omega
      simp [h, this]

@[simp] theorem BitMatrix.get_xor (m k : BitMatrix) (x y : Nat) :
    (m.xor k).get x y = ((m.get x y) ^^ (k.get x y)) := by
  by_cases h : x < 177 <;> simp [BitMatrix.get, BitMatrix.xor, h]

/-- Module (x, y) after one module is set (R118). -/
theorem BitMatrix.get_setOne (m : BitMatrix) (a b x y : Nat) (ha : a < 177) (hb : b < 177) :
    (m.setOne a b).get x y = (m.get x y || (decide (x = a) && decide (y = b))) := by
  simp only [BitMatrix.setOne, ha, if_true, BitMatrix.get, BitVec.getLsbD_or, BitVec.getLsbD_twoPow]
  by_cases hx : x < 177
  swap
  · have : x ≠ a := by omega
    simp [hx, this]
  by_cases h : x = a ∧ y = b
  · obtain ⟨rfl, rfl⟩ := h
    have : 177 * y + x < 31329 := by omega
    simp [hx, this]
  · have h1 : (decide (x = a) && decide (y = b)) = false := by
      simp only [Bool.and_eq_false_iff, decide_eq_false_iff_not]
      tauto
    have h2 : ¬ (177 * b + a = 177 * y + x) := by
      intro he
      apply h
      omega
    simp [h1, h2]

/-- The row read of a matrix. -/
theorem BitMatrix.row_getLsbD (m : BitMatrix) (x y : Nat) : (m.row y).getLsbD x = m.get x y := by
  simp [BitMatrix.row, BitMatrix.get, BitVec.getLsbD_extractLsb']

/-- Module (x, y) after a row is replaced (R46). -/
theorem BitMatrix.get_withRow (m : BitMatrix) (j : Nat) (r : BitVec 177) (x y : Nat) (hy : y < 177) :
    (m.withRow j r).get x y = if y = j then r.getLsbD x else m.get x y := by
  by_cases hx : x < 177
  swap
  · have : r.getLsbD x = false := BitVec.getLsbD_of_ge _ _ (by omega)
    simp [BitMatrix.get, hx, this]
  have hi : 177 * y + x < 31329 := by omega
  simp only [BitMatrix.withRow, BitMatrix.get, BitVec.getLsbD_xor, BitVec.getLsbD_shiftLeft, BitVec.getLsbD_setWidth]
  by_cases h : y = j
  · subst h
    have hr := m.row_getLsbD x y
    simp only [BitMatrix.get, hx, decide_true, Bool.true_and] at hr
    have e : 177 * y + x - 177 * y = x := by omega
    have n1 : ¬ (177 * y + x < 177 * y) := by omega
    have n2 : x < 31329 := by omega
    rw [e, hr]
    simp only [hx, hi, n1, n2, decide_true, decide_false, Bool.true_and, Bool.not_false, if_true]
    cases m.bits.getLsbD (177 * y + x) <;> simp
  · rcases lt_or_gt_of_ne h with h' | h'
    · have : 177 * y + x < 177 * j := by omega
      simp [h, this]
    · have e : ∀ v : BitVec 177, v.getLsbD (177 * y + x - 177 * j) = false :=
        fun v => BitVec.getLsbD_of_ge _ _ (by omega)
      simp [h, e]

/-- A matrix is determined by its 177 × 177 modules. -/
theorem BitMatrix.ext_get (m k : BitMatrix) (h : ∀ x y, x < 177 → y < 177 → m.get x y = k.get x y) : m = k := by
  cases m with | mk m => cases k with | mk k =>
  congr 1
  apply BitVec.eq_of_getLsbD_eq
  intro i hi
  have h' := h (i % 177) (i / 177) (Nat.mod_lt _ (by decide)) (by omega)
  have e : 177 * (i / 177) + i % 177 = i := Nat.div_add_mod i 177
  have hlt : i % 177 < 177 := Nat.mod_lt _ (by decide)
  simpa [BitMatrix.get, hlt, e] using h'

/-- Module (x, y) of the modules that mask m flips (R126): row y, column x, inside d × d. -/
theorem maskMatrix_get (c : Configuration) (m : BitVec 3) (d x y : Nat) :
    (maskMatrix c m d).get x y = (decide (x < d) && decide (x < 177) && decide (y < d) && decide (y < 177) && c.mask m y x) := by
  rw [maskMatrix, matrixOf_get, rowOf_getLsbD]
  by_cases h1 : y < d <;> by_cases h2 : y < 177 <;> simp [h1, h2]

/-- Module (x, y) after `unmask(m)` (R126). -/
theorem unmask_get (c : Configuration) (bm : BitMatrix) (m : BitVec 3) (d x y : Nat) :
    (unmask c bm m d).get x y = ((bm.get x y) ^^ ((maskMatrix c m d).get x y)) := by
  simp [unmask]

end Sys2Proof.Machine
end

