-- ==== Sys2Proof/Laws/Memory.lean ====
section
/-! SUPPORT. The laws of byte storage: a read after a write, what a write leaves alone, the canonical form kept by every operation and held at reset, and that canonical storage is determined by what it reads as. -/

namespace Sys2Proof.Machine

@[simp] theorem Memory.write_epoch (m : Memory) (a : Nat) (b : Byte) : (m.write a b).epoch = m.epoch := rfl

@[simp] theorem Memory.write_unlisted (m : Memory) (a : Nat) (b : Byte) (x : Nat) :
    (m.write a b).unlisted x = m.unlisted x := rfl

/-! ## One byte -/

theorem lookupCell_insertCell_ne (u : Byte) (a : Nat) (b : Byte) (x : Nat) (hx : x ≠ a) (cs : List Host.Cell) :
    lookupCell x (insertCell u a b cs) = lookupCell x cs := by
  induction cs with
  | nil =>
    have : ¬ a = x := fun h => hx h.symm
    by_cases hb : b = u <;> simp [insertCell, lookupCell, hb, this]
  | cons c cs ih =>
    have hax : ¬ a = x := fun h => hx h.symm
    unfold insertCell
    split
    · split <;> simp [lookupCell, hax]
    · split
      · rename_i h
        have hcx : ¬ c.1 = x := fun h' => hax (h.trans h')
        split <;> simp [lookupCell, hax, hcx]
      · simp [lookupCell, ih]

theorem lookupCell_eq_none_of_lt (a : Nat) (cs : List Host.Cell) (h : ∀ c ∈ cs, a < c.1) : lookupCell a cs = none := by
  induction cs with
  | nil => rfl
  | cons c cs ih =>
    have h1 := h c (by simp)
    have : ¬ c.1 = a := by omega
    simp [lookupCell, this, ih (fun d hd => h d (by simp [hd]))]

theorem lookupCell_insertCell_self (u : Byte) (a : Nat) (b : Byte) (cs : List Host.Cell)
    (h : cs.Pairwise (fun c d => c.1 < d.1)) : (lookupCell a (insertCell u a b cs)).getD u = b := by
  induction cs with
  | nil => by_cases hb : b = u <;> simp [insertCell, lookupCell, hb]
  | cons c cs ih =>
    rw [List.pairwise_cons] at h
    unfold insertCell
    split
    · rename_i hlt
      have hn : lookupCell a (c :: cs) = none := by
        apply lookupCell_eq_none_of_lt
        intro d hd
        rcases List.mem_cons.1 hd with rfl | hd
        · exact hlt
        · exact lt_trans hlt (h.1 d hd)
      split
      · rename_i hb; simp [hn, hb]
      · simp [lookupCell]
    · split
      · rename_i heq
        split
        · rename_i hb
          rw [lookupCell_eq_none_of_lt a cs (fun d hd => heq ▸ h.1 d hd)]
          simp [hb]
        · simp [lookupCell]
      · rename_i hne
        have : ¬ c.1 = a := fun h' => hne h'.symm
        simp [lookupCell, this, ih h.2]

/-- What storage reads as after one byte is written. -/
theorem Memory.read_write (m : Memory) (hm : m.wf) (a : Nat) (b : Byte) (x : Nat) :
    (m.write a b).read x = if x = a then b else m.read x := by
  by_cases h : x = a
  · subst h
    rw [if_pos rfl]
    exact lookupCell_insertCell_self (m.unlisted x) x b m.cells hm.1
  · simp only [h, if_false]
    simp only [Memory.read, Memory.write_unlisted]
    simp [Memory.write, lookupCell_insertCell_ne _ a b x h]

/-! ## The canonical form -/

theorem insertCell_mem (u : Byte) (a : Nat) (b : Byte) (cs : List Host.Cell) :
    ∀ c ∈ insertCell u a b cs, c ∈ cs ∨ (c = (a, b) ∧ b ≠ u) := by
  induction cs with
  | nil =>
    intro c hc
    by_cases hb : b = u
    · simp [insertCell, hb] at hc
    · simp [insertCell, hb] at hc; exact Or.inr ⟨hc, hb⟩
  | cons d cs ih =>
    intro c hc
    unfold insertCell at hc
    split at hc
    · split at hc
      · exact Or.inl hc
      · rename_i hb
        rcases List.mem_cons.1 hc with h | h
        · exact Or.inr ⟨h, hb⟩
        · exact Or.inl h
    · split at hc
      · split at hc
        · exact Or.inl (List.mem_cons_of_mem _ hc)
        · rename_i hb
          rcases List.mem_cons.1 hc with h | h
          · exact Or.inr ⟨h, hb⟩
          · exact Or.inl (List.mem_cons_of_mem _ h)
      · rcases List.mem_cons.1 hc with h | h
        · exact Or.inl (h ▸ List.mem_cons_self)
        · rcases ih c h with h | h
          · exact Or.inl (List.mem_cons_of_mem _ h)
          · exact Or.inr h

theorem insertCell_sorted (u : Byte) (a : Nat) (b : Byte) (cs : List Host.Cell)
    (h : cs.Pairwise (fun c d => c.1 < d.1)) : (insertCell u a b cs).Pairwise (fun c d => c.1 < d.1) := by
  induction cs with
  | nil => by_cases hb : b = u <;> simp [insertCell, hb]
  | cons c cs ih =>
    have h0 := h
    rw [List.pairwise_cons] at h
    unfold insertCell
    split
    · rename_i hlt
      split
      · exact h0
      · refine List.pairwise_cons.2 ⟨?_, h0⟩
        intro d hd
        rcases List.mem_cons.1 hd with rfl | hd
        · exact hlt
        · exact lt_trans hlt (h.1 d hd)
    · split
      · rename_i heq
        split
        · exact h.2
        · exact List.pairwise_cons.2 ⟨fun d hd => heq ▸ h.1 d hd, h.2⟩
      · rename_i hnlt hne
        refine List.pairwise_cons.2 ⟨?_, ih h.2⟩
        intro d hd
        rcases insertCell_mem u a b cs d hd with hd | ⟨rfl, _⟩
        · exact h.1 d hd
        · show c.1 < a
          omega

/-- A byte write keeps the canonical form. -/
theorem Memory.write_wf (m : Memory) (hm : m.wf) (a : Nat) (b : Byte) : (m.write a b).wf := by
  refine ⟨insertCell_sorted _ a b _ hm.1, ?_⟩
  intro c hc
  rcases insertCell_mem _ a b _ c hc with h | ⟨rfl, hb⟩
  · exact hm.2 c h
  · exact hb

/-- A byte write lists no address but its own and those listed before. -/
theorem Memory.write_listed (m : Memory) (a : Nat) (b : Byte) (P : Nat → Prop) (ha : P a)
    (hm : ∀ c ∈ m.cells, P c.1) : ∀ c ∈ (m.write a b).cells, P c.1 := by
  intro c hc
  rcases insertCell_mem _ a b _ c hc with h | ⟨rfl, _⟩
  · exact hm c h
  · exact ha

/-- The reset memory is canonical. -/
theorem Memory.reset_wf : State.reset.mem.wf := ⟨List.Pairwise.nil, by simp [State.reset]⟩

/-- Storage after any later reset is canonical. -/
theorem Memory.resetBlock_wf (s : State) : (resetBlock s).mem.wf := ⟨List.Pairwise.nil, by simp [resetBlock]⟩

/-! ## Runs of bytes, words, binary64 values, points -/

@[simp] theorem Memory.writeBytes_nil (m : Memory) (a : Nat) : m.writeBytes a [] = m := rfl
@[simp] theorem Memory.writeBytes_cons (m : Memory) (a : Nat) (b : Byte) (bs : List Byte) :
    m.writeBytes a (b :: bs) = (m.write a b).writeBytes (a + 1) bs := rfl

theorem Memory.writeBytes_wf (m : Memory) (hm : m.wf) (a : Nat) (bs : List Byte) : (m.writeBytes a bs).wf := by
  induction bs generalizing m a with
  | nil => exact hm
  | cons b bs ih => exact ih _ (m.write_wf hm a b) _

/-- What storage reads as after a run of bytes is written from `a` up. -/
theorem Memory.read_writeBytes (m : Memory) (hm : m.wf) (a : Nat) (bs : List Byte) (x : Nat) :
    (m.writeBytes a bs).read x = if a ≤ x ∧ x < a + bs.length then bs.getD (x - a) 0#8 else m.read x := by
  induction bs generalizing m a with
  | nil =>
    simp
  | cons b bs ih =>
    rw [Memory.writeBytes_cons, ih _ (m.write_wf hm a b), Memory.read_write m hm]
    simp only [List.length_cons]
    by_cases h0 : x = a
    · subst h0
      simp
    · by_cases h1 : a + 1 ≤ x ∧ x < a + 1 + bs.length
      · have h2 : a ≤ x ∧ x < a + (bs.length + 1) := by omega
        have h3 : x - a = (x - (a + 1)) + 1 := by omega
        rw [if_pos h1, if_pos h2, h3]
        simp
      · have h2 : ¬ (a ≤ x ∧ x < a + (bs.length + 1)) := by omega
        rw [if_neg h1, if_neg h2, if_neg h0]

theorem Memory.writeBytes_listed (m : Memory) (a : Nat) (bs : List Byte) (P : Nat → Prop)
    (ha : ∀ k < bs.length, P (a + k)) (hm : ∀ c ∈ m.cells, P c.1) : ∀ c ∈ (m.writeBytes a bs).cells, P c.1 := by
  induction bs generalizing m a with
  | nil => exact hm
  | cons b bs ih =>
    refine ih _ _ (fun k hk => ?_) (m.write_listed a b P ?_ hm)
    · have := ha (k + 1) (by simpa using hk)
      have h : a + 1 + k = a + (k + 1) := by omega
      exact h ▸ this
    · simpa using ha 0 (by simp)

@[simp] theorem wordBytes_length (v : Word) : (wordBytes v).length = 4 := rfl

theorem Memory.writeWord_wf (m : Memory) (hm : m.wf) (a : Nat) (v : Word) : (m.writeWord a v).wf :=
  m.writeBytes_wf hm a _

/-- Every byte of storage after a word is written: byte k of the word at `a + k`, the others as before. -/
theorem Memory.read_writeWord (m : Memory) (hm : m.wf) (a : Nat) (v : Word) (x : Nat) :
    (m.writeWord a v).read x = if a ≤ x ∧ x < a + 4 then (wordBytes v).getD (x - a) 0#8 else m.read x :=
  m.read_writeBytes hm a _ x

/-- A word reads back as it was written. -/
theorem Memory.readWord_writeWord (m : Memory) (hm : m.wf) (a : Nat) (v : Word) : (m.writeWord a v).readWord a = v := by
  simp only [Memory.readWord, Memory.read_writeWord m hm]
  have h0 : a ≤ a ∧ a < a + 4 := by omega
  have h1 : a ≤ a + 1 ∧ a + 1 < a + 4 := by omega
  have h2 : a ≤ a + 2 ∧ a + 2 < a + 4 := by omega
  have h3 : a ≤ a + 3 ∧ a + 3 < a + 4 := by omega
  simp only [h1, h2, h3, and_self, if_true, Nat.add_sub_cancel_left, Nat.sub_self]
  rw [if_pos (by omega)]
  simp only [wordBytes]
  apply BitVec.eq_of_getLsbD_eq
  intro i hi
  simp only [List.getD_cons_succ, List.getD_cons_zero, BitVec.getLsbD_append, BitVec.getLsbD_extractLsb']
  rcases lt_or_ge i 8 with h | h
  · simp [h]
  · rcases lt_or_ge i 16 with h' | h'
    · have : i - 8 < 8 := by omega
      have e : 8 + (i - 8) = i := by omega
      simp [this, e, not_lt.2 h]
    · rcases lt_or_ge i 24 with h'' | h''
      · have n1 : ¬ i - 8 < 8 := by omega
        have p : i - 8 - 8 < 8 := by omega
        have e : 16 + (i - 8 - 8) = i := by omega
        simp [n1, p, e, not_lt.2 h]
      · have n1 : ¬ i - 8 < 8 := by omega
        have n2 : ¬ i - 8 - 8 < 8 := by omega
        have p : i - 8 - 8 - 8 < 8 := by omega
        have e : 24 + (i - 8 - 8 - 8) = i := by omega
        simp [n1, n2, p, e, not_lt.2 h]

/-- A word away from the written one reads as before. -/
theorem Memory.readWord_writeWord_ne (m : Memory) (hm : m.wf) (a x : Nat) (v : Word) (h : x + 4 ≤ a ∨ a + 4 ≤ x) :
    (m.writeWord a v).readWord x = m.readWord x := by
  have k : ∀ j < 4, (m.writeWord a v).read (x + j) = m.read (x + j) := by
    intro j hj
    rw [Memory.read_writeWord m hm, if_neg (by omega)]
  simp only [Memory.readWord, k 1 (by omega), k 2 (by omega), k 3 (by omega)]
  have := k 0 (by omega)
  simp only [Nat.add_zero] at this
  rw [this]

theorem Memory.writeF64_wf (m : Memory) (hm : m.wf) (a : Nat) (v : F64) : (m.writeF64 a v).wf :=
  Memory.writeWord_wf _ (m.writeWord_wf hm a _) _ _

/-- Every byte of storage outside the eight bytes of a stored binary64 reads as before. -/
theorem Memory.read_writeF64_ne (m : Memory) (hm : m.wf) (a : Nat) (v : F64) (x : Nat) (h : x < a ∨ a + 8 ≤ x) :
    (m.writeF64 a v).read x = m.read x := by
  rw [Memory.writeF64, Memory.read_writeWord _ (m.writeWord_wf hm a _), if_neg (by omega), Memory.read_writeWord m hm, if_neg (by omega)]

theorem halfOf_append (v : F64) : halfOf v true ++ halfOf v false = v := by
  apply BitVec.eq_of_getLsbD_eq
  intro i hi
  simp only [halfOf, BitVec.getLsbD_append, BitVec.getLsbD_extractLsb', if_true]
  by_cases h : i < 32
  · simp [h]
  · have p : i - 32 < 32 := by omega
    have e : 32 + (i - 32) = i := by omega
    simp [h, p, e]

/-- A binary64 value reads back as it was stored. -/
theorem Memory.readF64_writeF64 (m : Memory) (hm : m.wf) (a : Nat) (v : F64) : (m.writeF64 a v).readF64 a = v := by
  have h1 := m.writeWord_wf hm a (halfOf v false)
  rw [Memory.readF64, Memory.writeF64, Memory.readWord_writeWord _ h1,
    Memory.readWord_writeWord_ne _ h1 _ _ _ (by omega), Memory.readWord_writeWord m hm]
  exact halfOf_append v

/-- A binary64 value away from the stored one reads as before. -/
theorem Memory.readF64_writeF64_ne (m : Memory) (hm : m.wf) (a x : Nat) (v : F64) (h : x + 8 ≤ a ∨ a + 8 ≤ x) :
    (m.writeF64 a v).readF64 x = m.readF64 x := by
  have h1 := m.writeWord_wf hm a (halfOf v false)
  simp only [Memory.readF64, Memory.writeF64]
  rw [Memory.readWord_writeWord_ne _ h1 _ _ _ (by omega), Memory.readWord_writeWord_ne _ h1 _ _ _ (by omega),
    Memory.readWord_writeWord_ne m hm _ _ _ (by omega), Memory.readWord_writeWord_ne m hm _ _ _ (by omega)]

theorem writePoints_wf (m : Memory) (hm : m.wf) (k : Nat) (vs : List F64) : (writePoints m k vs).wf := by
  induction vs generalizing m k with
  | nil => exact hm
  | cons v vs ih => exact ih _ (m.writeF64_wf hm _ v) _

/-- Every byte of storage outside the values stored in PT[k], PT[k+1], … reads as before. -/
theorem read_writePoints_ne (m : Memory) (hm : m.wf) (k : Nat) (vs : List F64) (x : Nat)
    (h : x < ptAddr k ∨ ptAddr (k + vs.length) ≤ x) : (writePoints m k vs).read x = m.read x := by
  induction vs generalizing m k with
  | nil => rfl
  | cons v vs ih =>
    simp only [List.length_cons, ptAddr] at h
    rw [writePoints, ih _ (m.writeF64_wf hm _ v), Memory.read_writeF64_ne m hm]
    · simp only [ptAddr]; omega
    · simp only [ptAddr]; omega

/-- PT[j] after values are stored in PT[k], PT[k+1], …. -/
theorem readF64_writePoints (m : Memory) (hm : m.wf) (k : Nat) (vs : List F64) (j : Nat) :
    (writePoints m k vs).readF64 (ptAddr j) =
      if k ≤ j ∧ j < k + vs.length then vs.getD (j - k) 0#64 else m.readF64 (ptAddr j) := by
  induction vs generalizing m k with
  | nil =>
    simp [writePoints]
  | cons v vs ih =>
    rw [writePoints, ih _ (m.writeF64_wf hm _ v)]
    simp only [List.length_cons]
    by_cases h1 : k + 1 ≤ j ∧ j < k + 1 + vs.length
    · have h2 : k ≤ j ∧ j < k + (vs.length + 1) := by omega
      have h3 : j - k = (j - (k + 1)) + 1 := by omega
      rw [if_pos h1, if_pos h2, h3]
      simp
    · rw [if_neg h1]
      by_cases h0 : j = k
      · subst h0
        rw [Memory.readF64_writeF64 m hm, if_pos (by omega)]
        simp
      · rw [Memory.readF64_writeF64_ne m hm _ _ _ (by simp only [ptAddr]; omega), if_neg (by omega)]

theorem writePoints_listed (m : Memory) (k : Nat) (vs : List F64) (P : Nat → Prop)
    (hp : ∀ x, ptAddr k ≤ x → x < ptAddr (k + vs.length) → P x) (hm : ∀ c ∈ m.cells, P c.1) :
    ∀ c ∈ (writePoints m k vs).cells, P c.1 := by
  induction vs generalizing m k with
  | nil => exact hm
  | cons v vs ih =>
    refine ih _ _ (fun x h1 h2 => hp x ?_ ?_) ?_
    · simp only [ptAddr] at *; omega
    · simp only [List.length_cons, ptAddr] at *; omega
    · refine Memory.writeBytes_listed _ _ _ P (fun j hj => hp _ ?_ ?_) (Memory.writeBytes_listed _ _ _ P (fun j hj => hp _ ?_ ?_) hm)
      all_goals simp only [wordBytes_length, List.length_cons, ptAddr] at *; omega

/-! ## Equal memories are equal data -/

theorem lookupCell_of_mem (cs : List Host.Cell) (h : cs.Pairwise (fun c d => c.1 < d.1)) (c : Host.Cell) (hc : c ∈ cs) :
    lookupCell c.1 cs = some c.2 := by
  induction cs with
  | nil => simp at hc
  | cons d cs ih =>
    rw [List.pairwise_cons] at h
    rcases List.mem_cons.1 hc with rfl | hc
    · simp [lookupCell]
    · have : ¬ d.1 = c.1 := (h.1 c hc).ne
      simp [lookupCell, this, ih h.2 hc]

theorem mem_of_lookupCell (cs : List Host.Cell) (a : Nat) (b : Byte) (h : lookupCell a cs = some b) : (a, b) ∈ cs := by
  induction cs with
  | nil => simp [lookupCell] at h
  | cons d cs ih =>
    unfold lookupCell at h
    split at h
    · rename_i he
      cases h
      rw [← he]
      exact List.mem_cons_self
    · exact List.mem_cons_of_mem _ (ih h)

/-- Canonical storages of one epoch that read alike everywhere are equal. -/
theorem Memory.ext_read (m n : Memory) (hm : m.wf) (hn : n.wf) (he : m.epoch = n.epoch)
    (h : ∀ a, m.read a = n.read a) : m = n := by
  have hu : ∀ a, m.unlisted a = n.unlisted a := fun a => by simp [Memory.unlisted, he]
  have sub : ∀ m n : Memory, m.wf → n.wf → (∀ a, m.unlisted a = n.unlisted a) → (∀ a, m.read a = n.read a) →
      ∀ c ∈ m.cells, c ∈ n.cells := by
    intro m n hm hn hu h c hc
    have h1 : m.read c.1 = c.2 := by simp [Memory.read, lookupCell_of_mem _ hm.1 c hc]
    have h2 : n.read c.1 = c.2 := by rw [← h, h1]
    cases hl : lookupCell c.1 n.cells with
    | none =>
      simp [Memory.read, hl] at h2
      exact absurd (h2.symm.trans (hu c.1).symm) (hm.2 c hc)
    | some b =>
      simp [Memory.read, hl] at h2
      have := mem_of_lookupCell _ _ _ hl
      rwa [h2] at this
  have key : ∀ l1 l2 : List Host.Cell, l1.Pairwise (fun c d => c.1 < d.1) → l2.Pairwise (fun c d => c.1 < d.1) →
      (∀ c ∈ l1, c ∈ l2) → (∀ c ∈ l2, c ∈ l1) → l1 = l2 := by
    intro l1 l2 h1 h2 h12 h21
    refine List.Perm.eq_of_pairwise (le := fun c d => c.1 < d.1) (fun a b _ _ hab hba => absurd hab (by omega)) h1 h2 ?_
    exact (List.perm_ext_iff_of_nodup (h1.imp (fun h e => by subst e; omega)) (h2.imp (fun h e => by subst e; omega))).2
      (fun c => ⟨h12 c, h21 c⟩)
  have hc := key m.cells n.cells hm.1 hn.1 (sub m n hm hn hu h) (sub n m hn hm (fun a => (hu a).symm) (fun a => (h a).symm))
  cases m; cases n; simp_all

end Sys2Proof.Machine
end

