-- ==== Sys2Proof/Laws/State.lean ====
section
/-! SUPPORT. What every field is after each named update of the state: one lemma a field an update, all by definition, so that no proof unfolds an update. -/

namespace Sys2Proof.Machine

/-! ## writeE -/

@[simp] theorem writeE_e (s : State) (r : EReg) (v : Byte) : (writeE s r v).e = s.e.set r.toNat v r.isLt := rfl
@[simp] theorem writeE_ev (s : State) (r : EReg) (v : Byte) : (writeE s r v).ev = s.ev ||| BitVec.twoPow 16 r.toNat := rfl
@[simp] theorem writeE_p (s : State) (r : EReg) (v : Byte) : (writeE s r v).p = s.p := rfl
@[simp] theorem writeE_pv (s : State) (r : EReg) (v : Byte) : (writeE s r v).pv = s.pv := rfl
@[simp] theorem writeE_t (s : State) (r : EReg) (v : Byte) : (writeE s r v).t = s.t := rfl
@[simp] theorem writeE_tv (s : State) (r : EReg) (v : Byte) : (writeE s r v).tv = s.tv := rfl
@[simp] theorem writeE_q (s : State) (r : EReg) (v : Byte) : (writeE s r v).q = s.q := rfl
@[simp] theorem writeE_mem (s : State) (r : EReg) (v : Byte) : (writeE s r v).mem = s.mem := rfl
@[simp] theorem writeE_bm (s : State) (r : EReg) (v : Byte) : (writeE s r v).bm = s.bm := rfl
@[simp] theorem writeE_bmDim (s : State) (r : EReg) (v : Byte) : (writeE s r v).bmDim = s.bmDim := rfl
@[simp] theorem writeE_fmt (s : State) (r : EReg) (v : Byte) : (writeE s r v).fmt = s.fmt := rfl
@[simp] theorem writeE_ver (s : State) (r : EReg) (v : Byte) : (writeE s r v).ver = s.ver := rfl
@[simp] theorem writeE_cwCount (s : State) (r : EReg) (v : Byte) : (writeE s r v).cwCount = s.cwCount := rfl
@[simp] theorem writeE_res (s : State) (r : EReg) (v : Byte) : (writeE s r v).res = s.res := rfl
@[simp] theorem writeE_acc (s : State) (r : EReg) (v : Byte) : (writeE s r v).acc = s.acc := rfl
@[simp] theorem writeE_imgW (s : State) (r : EReg) (v : Byte) : (writeE s r v).imgW = s.imgW := rfl
@[simp] theorem writeE_imgH (s : State) (r : EReg) (v : Byte) : (writeE s r v).imgH = s.imgH := rfl
@[simp] theorem writeE_doneIe (s : State) (r : EReg) (v : Byte) : (writeE s r v).doneIe = s.doneIe := rfl
@[simp] theorem writeE_errIe (s : State) (r : EReg) (v : Byte) : (writeE s r v).errIe = s.errIe := rfl
@[simp] theorem writeE_busy (s : State) (r : EReg) (v : Byte) : (writeE s r v).busy = s.busy := rfl
@[simp] theorem writeE_done (s : State) (r : EReg) (v : Byte) : (writeE s r v).done = s.done := rfl
@[simp] theorem writeE_err (s : State) (r : EReg) (v : Byte) : (writeE s r v).err = s.err := rfl
@[simp] theorem writeE_drop (s : State) (r : EReg) (v : Byte) : (writeE s r v).drop = s.drop := rfl
@[simp] theorem writeE_errCode (s : State) (r : EReg) (v : Byte) : (writeE s r v).errCode = s.errCode := rfl
@[simp] theorem writeE_errCmd (s : State) (r : EReg) (v : Byte) : (writeE s r v).errCmd = s.errCmd := rfl
@[simp] theorem writeE_errInfo0 (s : State) (r : EReg) (v : Byte) : (writeE s r v).errInfo0 = s.errInfo0 := rfl
@[simp] theorem writeE_errInfo1 (s : State) (r : EReg) (v : Byte) : (writeE s r v).errInfo1 = s.errInfo1 := rfl
@[simp] theorem writeE_cmdLatch (s : State) (r : EReg) (v : Byte) : (writeE s r v).cmdLatch = s.cmdLatch := rfl
@[simp] theorem writeE_rst (s : State) (r : EReg) (v : Byte) : (writeE s r v).rst = s.rst := rfl
@[simp] theorem writeE_rdata (s : State) (r : EReg) (v : Byte) : (writeE s r v).rdata = s.rdata := rfl
@[simp] theorem writeE_inputs (s : State) (r : EReg) (v : Byte) : (writeE s r v).inputs = s.inputs := rfl
@[simp] theorem writeE_draws (s : State) (r : EReg) (v : Byte) : (writeE s r v).draws = s.draws := rfl

/-! ## writeP -/

@[simp] theorem writeP_e (s : State) (r : PReg) (v : Poly) : (writeP s r v).e = s.e := rfl
@[simp] theorem writeP_ev (s : State) (r : PReg) (v : Poly) : (writeP s r v).ev = s.ev := rfl
@[simp] theorem writeP_p (s : State) (r : PReg) (v : Poly) : (writeP s r v).p = s.p.set r.toNat v r.isLt := rfl
@[simp] theorem writeP_pv (s : State) (r : PReg) (v : Poly) : (writeP s r v).pv = s.pv ||| BitVec.twoPow 8 r.toNat := rfl
@[simp] theorem writeP_t (s : State) (r : PReg) (v : Poly) : (writeP s r v).t = s.t := rfl
@[simp] theorem writeP_tv (s : State) (r : PReg) (v : Poly) : (writeP s r v).tv = s.tv := rfl
@[simp] theorem writeP_q (s : State) (r : PReg) (v : Poly) : (writeP s r v).q = s.q := rfl
@[simp] theorem writeP_mem (s : State) (r : PReg) (v : Poly) : (writeP s r v).mem = s.mem := rfl
@[simp] theorem writeP_bm (s : State) (r : PReg) (v : Poly) : (writeP s r v).bm = s.bm := rfl
@[simp] theorem writeP_bmDim (s : State) (r : PReg) (v : Poly) : (writeP s r v).bmDim = s.bmDim := rfl
@[simp] theorem writeP_fmt (s : State) (r : PReg) (v : Poly) : (writeP s r v).fmt = s.fmt := rfl
@[simp] theorem writeP_ver (s : State) (r : PReg) (v : Poly) : (writeP s r v).ver = s.ver := rfl
@[simp] theorem writeP_cwCount (s : State) (r : PReg) (v : Poly) : (writeP s r v).cwCount = s.cwCount := rfl
@[simp] theorem writeP_res (s : State) (r : PReg) (v : Poly) : (writeP s r v).res = s.res := rfl
@[simp] theorem writeP_acc (s : State) (r : PReg) (v : Poly) : (writeP s r v).acc = s.acc := rfl
@[simp] theorem writeP_imgW (s : State) (r : PReg) (v : Poly) : (writeP s r v).imgW = s.imgW := rfl
@[simp] theorem writeP_imgH (s : State) (r : PReg) (v : Poly) : (writeP s r v).imgH = s.imgH := rfl
@[simp] theorem writeP_doneIe (s : State) (r : PReg) (v : Poly) : (writeP s r v).doneIe = s.doneIe := rfl
@[simp] theorem writeP_errIe (s : State) (r : PReg) (v : Poly) : (writeP s r v).errIe = s.errIe := rfl
@[simp] theorem writeP_busy (s : State) (r : PReg) (v : Poly) : (writeP s r v).busy = s.busy := rfl
@[simp] theorem writeP_done (s : State) (r : PReg) (v : Poly) : (writeP s r v).done = s.done := rfl
@[simp] theorem writeP_err (s : State) (r : PReg) (v : Poly) : (writeP s r v).err = s.err := rfl
@[simp] theorem writeP_drop (s : State) (r : PReg) (v : Poly) : (writeP s r v).drop = s.drop := rfl
@[simp] theorem writeP_errCode (s : State) (r : PReg) (v : Poly) : (writeP s r v).errCode = s.errCode := rfl
@[simp] theorem writeP_errCmd (s : State) (r : PReg) (v : Poly) : (writeP s r v).errCmd = s.errCmd := rfl
@[simp] theorem writeP_errInfo0 (s : State) (r : PReg) (v : Poly) : (writeP s r v).errInfo0 = s.errInfo0 := rfl
@[simp] theorem writeP_errInfo1 (s : State) (r : PReg) (v : Poly) : (writeP s r v).errInfo1 = s.errInfo1 := rfl
@[simp] theorem writeP_cmdLatch (s : State) (r : PReg) (v : Poly) : (writeP s r v).cmdLatch = s.cmdLatch := rfl
@[simp] theorem writeP_rst (s : State) (r : PReg) (v : Poly) : (writeP s r v).rst = s.rst := rfl
@[simp] theorem writeP_rdata (s : State) (r : PReg) (v : Poly) : (writeP s r v).rdata = s.rdata := rfl
@[simp] theorem writeP_inputs (s : State) (r : PReg) (v : Poly) : (writeP s r v).inputs = s.inputs := rfl
@[simp] theorem writeP_draws (s : State) (r : PReg) (v : Poly) : (writeP s r v).draws = s.draws := rfl

/-! ## writeT -/

@[simp] theorem writeT_e (s : State) (t : Transform) : (writeT s t).e = s.e := rfl
@[simp] theorem writeT_ev (s : State) (t : Transform) : (writeT s t).ev = s.ev := rfl
@[simp] theorem writeT_p (s : State) (t : Transform) : (writeT s t).p = s.p := rfl
@[simp] theorem writeT_pv (s : State) (t : Transform) : (writeT s t).pv = s.pv := rfl
@[simp] theorem writeT_t (s : State) (t : Transform) : (writeT s t).t = t := rfl
@[simp] theorem writeT_tv (s : State) (t : Transform) : (writeT s t).tv = true := rfl
@[simp] theorem writeT_q (s : State) (t : Transform) : (writeT s t).q = s.q := rfl
@[simp] theorem writeT_mem (s : State) (t : Transform) : (writeT s t).mem = s.mem := rfl
@[simp] theorem writeT_bm (s : State) (t : Transform) : (writeT s t).bm = s.bm := rfl
@[simp] theorem writeT_bmDim (s : State) (t : Transform) : (writeT s t).bmDim = s.bmDim := rfl
@[simp] theorem writeT_fmt (s : State) (t : Transform) : (writeT s t).fmt = s.fmt := rfl
@[simp] theorem writeT_ver (s : State) (t : Transform) : (writeT s t).ver = s.ver := rfl
@[simp] theorem writeT_cwCount (s : State) (t : Transform) : (writeT s t).cwCount = s.cwCount := rfl
@[simp] theorem writeT_res (s : State) (t : Transform) : (writeT s t).res = s.res := rfl
@[simp] theorem writeT_acc (s : State) (t : Transform) : (writeT s t).acc = s.acc := rfl
@[simp] theorem writeT_imgW (s : State) (t : Transform) : (writeT s t).imgW = s.imgW := rfl
@[simp] theorem writeT_imgH (s : State) (t : Transform) : (writeT s t).imgH = s.imgH := rfl
@[simp] theorem writeT_doneIe (s : State) (t : Transform) : (writeT s t).doneIe = s.doneIe := rfl
@[simp] theorem writeT_errIe (s : State) (t : Transform) : (writeT s t).errIe = s.errIe := rfl
@[simp] theorem writeT_busy (s : State) (t : Transform) : (writeT s t).busy = s.busy := rfl
@[simp] theorem writeT_done (s : State) (t : Transform) : (writeT s t).done = s.done := rfl
@[simp] theorem writeT_err (s : State) (t : Transform) : (writeT s t).err = s.err := rfl
@[simp] theorem writeT_drop (s : State) (t : Transform) : (writeT s t).drop = s.drop := rfl
@[simp] theorem writeT_errCode (s : State) (t : Transform) : (writeT s t).errCode = s.errCode := rfl
@[simp] theorem writeT_errCmd (s : State) (t : Transform) : (writeT s t).errCmd = s.errCmd := rfl
@[simp] theorem writeT_errInfo0 (s : State) (t : Transform) : (writeT s t).errInfo0 = s.errInfo0 := rfl
@[simp] theorem writeT_errInfo1 (s : State) (t : Transform) : (writeT s t).errInfo1 = s.errInfo1 := rfl
@[simp] theorem writeT_cmdLatch (s : State) (t : Transform) : (writeT s t).cmdLatch = s.cmdLatch := rfl
@[simp] theorem writeT_rst (s : State) (t : Transform) : (writeT s t).rst = s.rst := rfl
@[simp] theorem writeT_rdata (s : State) (t : Transform) : (writeT s t).rdata = s.rdata := rfl
@[simp] theorem writeT_inputs (s : State) (t : Transform) : (writeT s t).inputs = s.inputs := rfl
@[simp] theorem writeT_draws (s : State) (t : Transform) : (writeT s t).draws = s.draws := rfl

/-! ## newMatrix -/

@[simp] theorem newMatrix_e (s : State) (m : BitMatrix) (d : Nat) : (newMatrix s m d).e = s.e := rfl
@[simp] theorem newMatrix_ev (s : State) (m : BitMatrix) (d : Nat) : (newMatrix s m d).ev = s.ev := rfl
@[simp] theorem newMatrix_p (s : State) (m : BitMatrix) (d : Nat) : (newMatrix s m d).p = s.p := rfl
@[simp] theorem newMatrix_pv (s : State) (m : BitMatrix) (d : Nat) : (newMatrix s m d).pv = s.pv := rfl
@[simp] theorem newMatrix_t (s : State) (m : BitMatrix) (d : Nat) : (newMatrix s m d).t = s.t := rfl
@[simp] theorem newMatrix_tv (s : State) (m : BitMatrix) (d : Nat) : (newMatrix s m d).tv = s.tv := rfl
@[simp] theorem newMatrix_q (s : State) (m : BitMatrix) (d : Nat) : (newMatrix s m d).q = s.q := rfl
@[simp] theorem newMatrix_mem (s : State) (m : BitMatrix) (d : Nat) : (newMatrix s m d).mem = s.mem := rfl
@[simp] theorem newMatrix_bm (s : State) (m : BitMatrix) (d : Nat) : (newMatrix s m d).bm = m := rfl
@[simp] theorem newMatrix_bmDim (s : State) (m : BitMatrix) (d : Nat) : (newMatrix s m d).bmDim = BitVec.ofNat 32 d := rfl
@[simp] theorem newMatrix_fmt (s : State) (m : BitMatrix) (d : Nat) : (newMatrix s m d).fmt = 0#32 := rfl
@[simp] theorem newMatrix_ver (s : State) (m : BitMatrix) (d : Nat) : (newMatrix s m d).ver = 0#32 := rfl
@[simp] theorem newMatrix_cwCount (s : State) (m : BitMatrix) (d : Nat) : (newMatrix s m d).cwCount = s.cwCount := rfl
@[simp] theorem newMatrix_res (s : State) (m : BitMatrix) (d : Nat) : (newMatrix s m d).res = s.res := rfl
@[simp] theorem newMatrix_acc (s : State) (m : BitMatrix) (d : Nat) : (newMatrix s m d).acc = s.acc := rfl
@[simp] theorem newMatrix_imgW (s : State) (m : BitMatrix) (d : Nat) : (newMatrix s m d).imgW = s.imgW := rfl
@[simp] theorem newMatrix_imgH (s : State) (m : BitMatrix) (d : Nat) : (newMatrix s m d).imgH = s.imgH := rfl
@[simp] theorem newMatrix_doneIe (s : State) (m : BitMatrix) (d : Nat) : (newMatrix s m d).doneIe = s.doneIe := rfl
@[simp] theorem newMatrix_errIe (s : State) (m : BitMatrix) (d : Nat) : (newMatrix s m d).errIe = s.errIe := rfl
@[simp] theorem newMatrix_busy (s : State) (m : BitMatrix) (d : Nat) : (newMatrix s m d).busy = s.busy := rfl
@[simp] theorem newMatrix_done (s : State) (m : BitMatrix) (d : Nat) : (newMatrix s m d).done = s.done := rfl
@[simp] theorem newMatrix_err (s : State) (m : BitMatrix) (d : Nat) : (newMatrix s m d).err = s.err := rfl
@[simp] theorem newMatrix_drop (s : State) (m : BitMatrix) (d : Nat) : (newMatrix s m d).drop = s.drop := rfl
@[simp] theorem newMatrix_errCode (s : State) (m : BitMatrix) (d : Nat) : (newMatrix s m d).errCode = s.errCode := rfl
@[simp] theorem newMatrix_errCmd (s : State) (m : BitMatrix) (d : Nat) : (newMatrix s m d).errCmd = s.errCmd := rfl
@[simp] theorem newMatrix_errInfo0 (s : State) (m : BitMatrix) (d : Nat) : (newMatrix s m d).errInfo0 = s.errInfo0 := rfl
@[simp] theorem newMatrix_errInfo1 (s : State) (m : BitMatrix) (d : Nat) : (newMatrix s m d).errInfo1 = s.errInfo1 := rfl
@[simp] theorem newMatrix_cmdLatch (s : State) (m : BitMatrix) (d : Nat) : (newMatrix s m d).cmdLatch = s.cmdLatch := rfl
@[simp] theorem newMatrix_rst (s : State) (m : BitMatrix) (d : Nat) : (newMatrix s m d).rst = s.rst := rfl
@[simp] theorem newMatrix_rdata (s : State) (m : BitMatrix) (d : Nat) : (newMatrix s m d).rdata = s.rdata := rfl
@[simp] theorem newMatrix_inputs (s : State) (m : BitMatrix) (d : Nat) : (newMatrix s m d).inputs = s.inputs := rfl
@[simp] theorem newMatrix_draws (s : State) (m : BitMatrix) (d : Nat) : (newMatrix s m d).draws = s.draws := rfl

/-! ## storePoints -/

@[simp] theorem storePoints_e (s : State) (pts : List Point) : (storePoints s pts).e = s.e := rfl
@[simp] theorem storePoints_ev (s : State) (pts : List Point) : (storePoints s pts).ev = s.ev := rfl
@[simp] theorem storePoints_p (s : State) (pts : List Point) : (storePoints s pts).p = s.p := rfl
@[simp] theorem storePoints_pv (s : State) (pts : List Point) : (storePoints s pts).pv = s.pv := rfl
@[simp] theorem storePoints_t (s : State) (pts : List Point) : (storePoints s pts).t = s.t := rfl
@[simp] theorem storePoints_tv (s : State) (pts : List Point) : (storePoints s pts).tv = s.tv := rfl
@[simp] theorem storePoints_q (s : State) (pts : List Point) : (storePoints s pts).q = s.q := rfl
@[simp] theorem storePoints_mem (s : State) (pts : List Point) : (storePoints s pts).mem = writePoints s.mem 0 (pts.flatMap (fun pt => [pt.1, pt.2])) := rfl
@[simp] theorem storePoints_bm (s : State) (pts : List Point) : (storePoints s pts).bm = s.bm := rfl
@[simp] theorem storePoints_bmDim (s : State) (pts : List Point) : (storePoints s pts).bmDim = s.bmDim := rfl
@[simp] theorem storePoints_fmt (s : State) (pts : List Point) : (storePoints s pts).fmt = s.fmt := rfl
@[simp] theorem storePoints_ver (s : State) (pts : List Point) : (storePoints s pts).ver = s.ver := rfl
@[simp] theorem storePoints_cwCount (s : State) (pts : List Point) : (storePoints s pts).cwCount = s.cwCount := rfl
@[simp] theorem storePoints_res (s : State) (pts : List Point) : (storePoints s pts).res = s.res := rfl
@[simp] theorem storePoints_acc (s : State) (pts : List Point) : (storePoints s pts).acc = s.acc := rfl
@[simp] theorem storePoints_imgW (s : State) (pts : List Point) : (storePoints s pts).imgW = s.imgW := rfl
@[simp] theorem storePoints_imgH (s : State) (pts : List Point) : (storePoints s pts).imgH = s.imgH := rfl
@[simp] theorem storePoints_doneIe (s : State) (pts : List Point) : (storePoints s pts).doneIe = s.doneIe := rfl
@[simp] theorem storePoints_errIe (s : State) (pts : List Point) : (storePoints s pts).errIe = s.errIe := rfl
@[simp] theorem storePoints_busy (s : State) (pts : List Point) : (storePoints s pts).busy = s.busy := rfl
@[simp] theorem storePoints_done (s : State) (pts : List Point) : (storePoints s pts).done = s.done := rfl
@[simp] theorem storePoints_err (s : State) (pts : List Point) : (storePoints s pts).err = s.err := rfl
@[simp] theorem storePoints_drop (s : State) (pts : List Point) : (storePoints s pts).drop = s.drop := rfl
@[simp] theorem storePoints_errCode (s : State) (pts : List Point) : (storePoints s pts).errCode = s.errCode := rfl
@[simp] theorem storePoints_errCmd (s : State) (pts : List Point) : (storePoints s pts).errCmd = s.errCmd := rfl
@[simp] theorem storePoints_errInfo0 (s : State) (pts : List Point) : (storePoints s pts).errInfo0 = s.errInfo0 := rfl
@[simp] theorem storePoints_errInfo1 (s : State) (pts : List Point) : (storePoints s pts).errInfo1 = s.errInfo1 := rfl
@[simp] theorem storePoints_cmdLatch (s : State) (pts : List Point) : (storePoints s pts).cmdLatch = s.cmdLatch := rfl
@[simp] theorem storePoints_rst (s : State) (pts : List Point) : (storePoints s pts).rst = s.rst := rfl
@[simp] theorem storePoints_rdata (s : State) (pts : List Point) : (storePoints s pts).rdata = s.rdata := rfl
@[simp] theorem storePoints_inputs (s : State) (pts : List Point) : (storePoints s pts).inputs = s.inputs := rfl
@[simp] theorem storePoints_draws (s : State) (pts : List Point) : (storePoints s pts).draws = s.draws := rfl

/-! ## complete -/

@[simp] theorem complete_e (s : State) : (complete s).e = s.e := rfl
@[simp] theorem complete_ev (s : State) : (complete s).ev = s.ev := rfl
@[simp] theorem complete_p (s : State) : (complete s).p = s.p := rfl
@[simp] theorem complete_pv (s : State) : (complete s).pv = s.pv := rfl
@[simp] theorem complete_t (s : State) : (complete s).t = s.t := rfl
@[simp] theorem complete_tv (s : State) : (complete s).tv = s.tv := rfl
@[simp] theorem complete_q (s : State) : (complete s).q = s.q := rfl
@[simp] theorem complete_mem (s : State) : (complete s).mem = s.mem := rfl
@[simp] theorem complete_bm (s : State) : (complete s).bm = s.bm := rfl
@[simp] theorem complete_bmDim (s : State) : (complete s).bmDim = s.bmDim := rfl
@[simp] theorem complete_fmt (s : State) : (complete s).fmt = s.fmt := rfl
@[simp] theorem complete_ver (s : State) : (complete s).ver = s.ver := rfl
@[simp] theorem complete_cwCount (s : State) : (complete s).cwCount = s.cwCount := rfl
@[simp] theorem complete_res (s : State) : (complete s).res = s.res := rfl
@[simp] theorem complete_acc (s : State) : (complete s).acc = s.acc := rfl
@[simp] theorem complete_imgW (s : State) : (complete s).imgW = s.imgW := rfl
@[simp] theorem complete_imgH (s : State) : (complete s).imgH = s.imgH := rfl
@[simp] theorem complete_doneIe (s : State) : (complete s).doneIe = s.doneIe := rfl
@[simp] theorem complete_errIe (s : State) : (complete s).errIe = s.errIe := rfl
@[simp] theorem complete_busy (s : State) : (complete s).busy = false := rfl
@[simp] theorem complete_done (s : State) : (complete s).done = true := rfl
@[simp] theorem complete_err (s : State) : (complete s).err = s.err := rfl
@[simp] theorem complete_drop (s : State) : (complete s).drop = s.drop := rfl
@[simp] theorem complete_errCode (s : State) : (complete s).errCode = s.errCode := rfl
@[simp] theorem complete_errCmd (s : State) : (complete s).errCmd = s.errCmd := rfl
@[simp] theorem complete_errInfo0 (s : State) : (complete s).errInfo0 = s.errInfo0 := rfl
@[simp] theorem complete_errInfo1 (s : State) : (complete s).errInfo1 = s.errInfo1 := rfl
@[simp] theorem complete_cmdLatch (s : State) : (complete s).cmdLatch = s.cmdLatch := rfl
@[simp] theorem complete_rst (s : State) : (complete s).rst = s.rst := rfl
@[simp] theorem complete_rdata (s : State) : (complete s).rdata = s.rdata := rfl
@[simp] theorem complete_inputs (s : State) : (complete s).inputs = s.inputs := rfl
@[simp] theorem complete_draws (s : State) : (complete s).draws = s.draws := rfl

/-! ## raise -/

@[simp] theorem raise_e (x : CmdError) (s : State) : (raise x s).e = s.e := rfl
@[simp] theorem raise_ev (x : CmdError) (s : State) : (raise x s).ev = s.ev := rfl
@[simp] theorem raise_p (x : CmdError) (s : State) : (raise x s).p = s.p := rfl
@[simp] theorem raise_pv (x : CmdError) (s : State) : (raise x s).pv = s.pv := rfl
@[simp] theorem raise_t (x : CmdError) (s : State) : (raise x s).t = s.t := rfl
@[simp] theorem raise_tv (x : CmdError) (s : State) : (raise x s).tv = s.tv := rfl
@[simp] theorem raise_q (x : CmdError) (s : State) : (raise x s).q = s.q := rfl
@[simp] theorem raise_mem (x : CmdError) (s : State) : (raise x s).mem = s.mem := rfl
@[simp] theorem raise_bm (x : CmdError) (s : State) : (raise x s).bm = s.bm := rfl
@[simp] theorem raise_bmDim (x : CmdError) (s : State) : (raise x s).bmDim = s.bmDim := rfl
@[simp] theorem raise_fmt (x : CmdError) (s : State) : (raise x s).fmt = s.fmt := rfl
@[simp] theorem raise_ver (x : CmdError) (s : State) : (raise x s).ver = s.ver := rfl
@[simp] theorem raise_cwCount (x : CmdError) (s : State) : (raise x s).cwCount = s.cwCount := rfl
@[simp] theorem raise_res (x : CmdError) (s : State) : (raise x s).res = s.res := rfl
@[simp] theorem raise_acc (x : CmdError) (s : State) : (raise x s).acc = s.acc := rfl
@[simp] theorem raise_imgW (x : CmdError) (s : State) : (raise x s).imgW = s.imgW := rfl
@[simp] theorem raise_imgH (x : CmdError) (s : State) : (raise x s).imgH = s.imgH := rfl
@[simp] theorem raise_doneIe (x : CmdError) (s : State) : (raise x s).doneIe = s.doneIe := rfl
@[simp] theorem raise_errIe (x : CmdError) (s : State) : (raise x s).errIe = s.errIe := rfl
@[simp] theorem raise_busy (x : CmdError) (s : State) : (raise x s).busy = false := rfl
@[simp] theorem raise_done (x : CmdError) (s : State) : (raise x s).done = true := rfl
@[simp] theorem raise_err (x : CmdError) (s : State) : (raise x s).err = true := rfl
@[simp] theorem raise_drop (x : CmdError) (s : State) : (raise x s).drop = s.drop := rfl
@[simp] theorem raise_errCode (x : CmdError) (s : State) : (raise x s).errCode = x.kind.code := rfl
@[simp] theorem raise_errCmd (x : CmdError) (s : State) : (raise x s).errCmd = s.cmdLatch := rfl
@[simp] theorem raise_errInfo0 (x : CmdError) (s : State) : (raise x s).errInfo0 = x.info0 := rfl
@[simp] theorem raise_errInfo1 (x : CmdError) (s : State) : (raise x s).errInfo1 = x.info1 := rfl
@[simp] theorem raise_cmdLatch (x : CmdError) (s : State) : (raise x s).cmdLatch = s.cmdLatch := rfl
@[simp] theorem raise_rst (x : CmdError) (s : State) : (raise x s).rst = s.rst := rfl
@[simp] theorem raise_rdata (x : CmdError) (s : State) : (raise x s).rdata = s.rdata := rfl
@[simp] theorem raise_inputs (x : CmdError) (s : State) : (raise x s).inputs = s.inputs := rfl
@[simp] theorem raise_draws (x : CmdError) (s : State) : (raise x s).draws = s.draws := rfl

/-! ## clearError -/

@[simp] theorem clearError_e (s : State) : (clearError s).e = s.e := rfl
@[simp] theorem clearError_ev (s : State) : (clearError s).ev = s.ev := rfl
@[simp] theorem clearError_p (s : State) : (clearError s).p = s.p := rfl
@[simp] theorem clearError_pv (s : State) : (clearError s).pv = s.pv := rfl
@[simp] theorem clearError_t (s : State) : (clearError s).t = s.t := rfl
@[simp] theorem clearError_tv (s : State) : (clearError s).tv = s.tv := rfl
@[simp] theorem clearError_q (s : State) : (clearError s).q = s.q := rfl
@[simp] theorem clearError_mem (s : State) : (clearError s).mem = s.mem := rfl
@[simp] theorem clearError_bm (s : State) : (clearError s).bm = s.bm := rfl
@[simp] theorem clearError_bmDim (s : State) : (clearError s).bmDim = s.bmDim := rfl
@[simp] theorem clearError_fmt (s : State) : (clearError s).fmt = s.fmt := rfl
@[simp] theorem clearError_ver (s : State) : (clearError s).ver = s.ver := rfl
@[simp] theorem clearError_cwCount (s : State) : (clearError s).cwCount = s.cwCount := rfl
@[simp] theorem clearError_res (s : State) : (clearError s).res = s.res := rfl
@[simp] theorem clearError_acc (s : State) : (clearError s).acc = s.acc := rfl
@[simp] theorem clearError_imgW (s : State) : (clearError s).imgW = s.imgW := rfl
@[simp] theorem clearError_imgH (s : State) : (clearError s).imgH = s.imgH := rfl
@[simp] theorem clearError_doneIe (s : State) : (clearError s).doneIe = s.doneIe := rfl
@[simp] theorem clearError_errIe (s : State) : (clearError s).errIe = s.errIe := rfl
@[simp] theorem clearError_busy (s : State) : (clearError s).busy = s.busy := rfl
@[simp] theorem clearError_done (s : State) : (clearError s).done = s.done := rfl
@[simp] theorem clearError_err (s : State) : (clearError s).err = false := rfl
@[simp] theorem clearError_drop (s : State) : (clearError s).drop = false := rfl
@[simp] theorem clearError_errCode (s : State) : (clearError s).errCode = 0#8 := rfl
@[simp] theorem clearError_errCmd (s : State) : (clearError s).errCmd = 0#32 := rfl
@[simp] theorem clearError_errInfo0 (s : State) : (clearError s).errInfo0 = 0#32 := rfl
@[simp] theorem clearError_errInfo1 (s : State) : (clearError s).errInfo1 = 0#32 := rfl
@[simp] theorem clearError_cmdLatch (s : State) : (clearError s).cmdLatch = s.cmdLatch := rfl
@[simp] theorem clearError_rst (s : State) : (clearError s).rst = s.rst := rfl
@[simp] theorem clearError_rdata (s : State) : (clearError s).rdata = s.rdata := rfl
@[simp] theorem clearError_inputs (s : State) : (clearError s).inputs = s.inputs := rfl
@[simp] theorem clearError_draws (s : State) : (clearError s).draws = s.draws := rfl

/-! ## resetBlock (its T holds nine free values) -/

@[simp] theorem resetBlock_e (s : State) : (resetBlock s).e = Vector.ofFn (Config.resetElement s.draws) := rfl
@[simp] theorem resetBlock_ev (s : State) : (resetBlock s).ev = 0#16 := rfl
@[simp] theorem resetBlock_p (s : State) : (resetBlock s).p = Vector.ofFn (Config.resetPoly s.draws) := rfl
@[simp] theorem resetBlock_pv (s : State) : (resetBlock s).pv = 0#8 := rfl
@[simp] theorem resetBlock_tv (s : State) : (resetBlock s).tv = false := rfl
@[simp] theorem resetBlock_q (s : State) : (resetBlock s).q = Vector.ofFn (Config.resetQuad s.draws) := rfl
@[simp] theorem resetBlock_mem (s : State) : (resetBlock s).mem = ⟨s.draws + 1, []⟩ := rfl
@[simp] theorem resetBlock_bm (s : State) : (resetBlock s).bm = ⟨Config.resetModules s.draws⟩ := rfl
@[simp] theorem resetBlock_bmDim (s : State) : (resetBlock s).bmDim = 0#32 := rfl
@[simp] theorem resetBlock_fmt (s : State) : (resetBlock s).fmt = 0#32 := rfl
@[simp] theorem resetBlock_ver (s : State) : (resetBlock s).ver = 0#32 := rfl
@[simp] theorem resetBlock_cwCount (s : State) : (resetBlock s).cwCount = 0#32 := rfl
@[simp] theorem resetBlock_res (s : State) : (resetBlock s).res = 0#32 := rfl
@[simp] theorem resetBlock_acc (s : State) : (resetBlock s).acc = 0#32 := rfl
@[simp] theorem resetBlock_imgW (s : State) : (resetBlock s).imgW = 0#12 := rfl
@[simp] theorem resetBlock_imgH (s : State) : (resetBlock s).imgH = 0#12 := rfl
@[simp] theorem resetBlock_doneIe (s : State) : (resetBlock s).doneIe = false := rfl
@[simp] theorem resetBlock_errIe (s : State) : (resetBlock s).errIe = false := rfl
@[simp] theorem resetBlock_busy (s : State) : (resetBlock s).busy = false := rfl
@[simp] theorem resetBlock_done (s : State) : (resetBlock s).done = false := rfl
@[simp] theorem resetBlock_err (s : State) : (resetBlock s).err = false := rfl
@[simp] theorem resetBlock_drop (s : State) : (resetBlock s).drop = false := rfl
@[simp] theorem resetBlock_errCode (s : State) : (resetBlock s).errCode = 0#8 := rfl
@[simp] theorem resetBlock_errCmd (s : State) : (resetBlock s).errCmd = 0#32 := rfl
@[simp] theorem resetBlock_errInfo0 (s : State) : (resetBlock s).errInfo0 = 0#32 := rfl
@[simp] theorem resetBlock_errInfo1 (s : State) : (resetBlock s).errInfo1 = 0#32 := rfl
@[simp] theorem resetBlock_cmdLatch (s : State) : (resetBlock s).cmdLatch = Config.resetLatch s.draws := rfl
@[simp] theorem resetBlock_rst (s : State) : (resetBlock s).rst = s.rst := rfl
@[simp] theorem resetBlock_rdata (s : State) : (resetBlock s).rdata = s.rdata := rfl
@[simp] theorem resetBlock_inputs (s : State) : (resetBlock s).inputs = s.inputs := rfl
@[simp] theorem resetBlock_draws (s : State) : (resetBlock s).draws = s.draws + 1 := rfl

end Sys2Proof.Machine
end

