-- ==== Sys2Proof/Laws/Ops.lean ====
section
/-! SUPPORT. One lemma for each shared operation that says once everything it can do. -/

namespace Sys2Proof.Machine

/-- The end of a command is always a next state: its writes and the completion, or the error record alone (R54, R144). -/
theorem finish_next (s : State) (r : Except CmdError State) (t : State) (h : finish s r = .next t) :
    (∃ u, r = .ok u ∧ t = complete u) ∨ (∃ x, r = .error x ∧ t = raise x s) := by
  cases r with
  | ok u => exact .inl ⟨u, rfl, by simpa [finish] using h.symm⟩
  | error x => exact .inr ⟨x, rfl, by simpa [finish] using h.symm⟩

@[simp] theorem finish_ok (s u : State) : finish s (.ok u) = .next (complete u) := rfl
@[simp] theorem finish_error (s : State) (x : CmdError) : finish s (.error x) = .next (raise x s) := rfl

@[simp] theorem failIf_true (x : CmdError) : failIf true x = .error x := rfl
@[simp] theorem failIf_false (x : CmdError) : failIf false x = .ok () := rfl

theorem failIf_ok (b : Bool) (x : CmdError) (u : Unit) (h : failIf b x = .ok u) : b = false := by
  cases b <;> simp_all

theorem failIf_error (b : Bool) (x y : CmdError) (h : failIf b x = .error y) : b = true ∧ y = x := by
  cases b <;> simp_all

/-- A command's steps, one after another: the second runs on what the first gives. -/
theorem bind_ok_iff {α β : Type} (r : Except CmdError α) (f : α → Except CmdError β) (b : β) :
    (r >>= f) = .ok b ↔ ∃ a, r = .ok a ∧ f a = .ok b := by
  cases r <;> simp [bind, Except.bind]

/-- A command's error is the first its checks find (R148). -/
theorem bind_error_iff {α β : Type} (r : Except CmdError α) (f : α → Except CmdError β) (x : CmdError) :
    (r >>= f) = .error x ↔ r = .error x ∨ ∃ a, r = .ok a ∧ f a = .error x := by
  cases r <;> simp [bind, Except.bind]

/-- What a command's read of E[r] can answer (R16). -/
theorem readE_cases (s : State) (r : EReg) :
    (s.ev.getLsbD r.toNat = true ∧ readE s r = .ok (s.e[r.toNat]'r.isLt)) ∨
    (s.ev.getLsbD r.toNat = false ∧ readE s r = .error (uninit 1 r.toNat)) := by
  cases h : s.ev.getLsbD r.toNat <;> simp [readE, h]

/-- What a command's read of P[r] can answer (R17). -/
theorem readP_cases (s : State) (r : PReg) :
    (s.pv.getLsbD r.toNat = true ∧ readP s r = .ok (s.p[r.toNat]'r.isLt)) ∨
    (s.pv.getLsbD r.toNat = false ∧ readP s r = .error (uninit 2 r.toNat)) := by
  cases h : s.pv.getLsbD r.toNat <;> simp [readP, h]

/-- What a command's read of T can answer (R20). -/
theorem readT_cases (s : State) :
    (s.tv = true ∧ readT s = .ok s.t) ∨ (s.tv = false ∧ readT s = .error (uninit 3 0)) := by
  cases h : s.tv <;> simp [readT, h]

/-- What a command that needs a matrix finds (R26). -/
theorem needMatrix_cases (s : State) :
    (s.bmDim ≠ 0#32 ∧ needMatrix s = .ok s.bmDim.toNat) ∨ (s.bmDim = 0#32 ∧ needMatrix s = .error (uninit 4 0)) := by
  by_cases h : s.bmDim = 0#32 <;> simp [needMatrix, h]

/-- What the operand check of M.SET, M.GET and D.RDBIT can answer (R118). -/
theorem checkModule_cases (s : State) (x y : Nat) :
    (s.bmDim ≠ 0#32 ∧ x < s.bmDim.toNat ∧ y < s.bmDim.toNat ∧ checkModule s x y = .ok ()) ∨
    (s.bmDim = 0#32 ∧ checkModule s x y = .error (uninit 4 0)) ∨
    (s.bmDim ≠ 0#32 ∧ (s.bmDim.toNat ≤ x ∨ s.bmDim.toNat ≤ y) ∧ checkModule s x y = .error (err .argument 5)) := by
  by_cases h : s.bmDim = 0#32
  · exact .inr (.inl ⟨h, by simp [checkModule, needMatrix, h, bind, Except.bind]⟩)
  · by_cases hx : s.bmDim.toNat ≤ x
    · exact .inr (.inr ⟨h, .inl hx, by simp [checkModule, needMatrix, h, hx, bind, Except.bind]⟩)
    · by_cases hy : s.bmDim.toNat ≤ y
      · exact .inr (.inr ⟨h, .inr hy, by simp [checkModule, needMatrix, h, hy, bind, Except.bind]⟩)
      · exact .inl ⟨h, by omega, by omega, by simp [checkModule, needMatrix, h, hx, hy, bind, Except.bind]⟩

/-- What the dimension check can answer (R109). -/
theorem checkDim_cases (d : Nat) :
    (dimOK d = true ∧ checkDim d = .ok ()) ∨ (dimOK d = false ∧ checkDim d = .error (err .structural d)) := by
  cases h : dimOK d <;> simp [checkDim, h]

/-- What the image check can answer (R110). -/
theorem checkImage_cases (s : State) :
    (imgOK s = true ∧ checkImage s = .ok ()) ∨ (imgOK s = false ∧ checkImage s = .error (err .argument 2)) := by
  cases h : imgOK s <;> simp [checkImage, h]

/-- What the point-count check can answer (R108). -/
theorem checkPointCount_cases (n : Nat) :
    (n ≤ 256 ∧ checkPointCount n = .ok ()) ∨ (256 < n ∧ checkPointCount n = .error (err .argument 4)) := by
  by_cases h : n ≤ 256
  · exact .inl ⟨h, by simp [checkPointCount, not_lt.2 h]⟩
  · exact .inr ⟨by omega, by simp [checkPointCount, not_le.1 h]⟩

/-- E[k] and its valid bit after a write of E[r] (R16). -/
theorem writeE_get (s : State) (r k : EReg) (v : Byte) :
    (writeE s r v).e[k.toNat]'k.isLt = (if k = r then v else s.e[k.toNat]'k.isLt) ∧
    (writeE s r v).ev.getLsbD k.toNat = (decide (k = r) || s.ev.getLsbD k.toNat) := by
  have hk : k.toNat < 16 := k.isLt
  by_cases h : k = r
  · subst h
    simp [writeE, hk]
  · have hne : r.toNat ≠ k.toNat := fun he => h (BitVec.eq_of_toNat_eq he.symm)
    have hne' : k.toNat ≠ r.toNat := fun he => hne he.symm
    simp [writeE, h, BitVec.getLsbD_twoPow, hne]

/-- P[k] and its valid bit after a write of P[r] (R17). -/
theorem writeP_get (s : State) (r k : PReg) (v : Poly) :
    (writeP s r v).p[k.toNat]'k.isLt = (if k = r then v else s.p[k.toNat]'k.isLt) ∧
    (writeP s r v).pv.getLsbD k.toNat = (decide (k = r) || s.pv.getLsbD k.toNat) := by
  have hk : k.toNat < 8 := k.isLt
  by_cases h : k = r
  · subst h
    simp [writeP, hk]
  · have hne : r.toNat ≠ k.toNat := fun he => h (BitVec.eq_of_toNat_eq he.symm)
    simp [writeP, h, BitVec.getLsbD_twoPow, hne]

/-- What a write of CTRL can do (R31). -/
theorem writeCtrl_cases (v : Word) (s : State) :
    (v.getLsbD 31 = true ∧ writeCtrl v s = resetBlock s) ∨
    (v.getLsbD 31 = false ∧ ∃ u, (u = { s with doneIe := v.getLsbD 0, errIe := v.getLsbD 1 } ∧ v.getLsbD 8 = false ∨
        u = clearError { s with doneIe := v.getLsbD 0, errIe := v.getLsbD 1 } ∧ v.getLsbD 8 = true) ∧
      (writeCtrl v s = u ∧ v.getLsbD 9 = false ∨ writeCtrl v s = { u with done := false } ∧ v.getLsbD 9 = true)) := by
  cases h : v.getLsbD 31
  · refine .inr ⟨rfl, ?_⟩
    cases h8 : v.getLsbD 8 <;> cases h9 : v.getLsbD 9 <;>
      simp only [writeCtrl, h, h8, h9, if_true, if_false, Bool.false_eq_true, reduceCtorEq] <;> simp
  · exact .inl ⟨rfl, by simp only [writeCtrl, h, if_true]⟩

/-- What a host write can do (R40, R41, R158). -/
theorem hostWrite_cases (a : BitVec 19) (v : Word) (s : State) :
    (s.rst = true ∧ hostWrite a v s = s) ∨
    (s.rst = false ∧ s.busy = true ∧ target (byteAddr a) ≠ .ctrl ∧ hostWrite a v s = { s with drop := true }) ∨
    (s.rst = false ∧ (s.busy = false ∨ target (byteAddr a) = .ctrl) ∧ hostWrite a v s = writeTarget v s (target (byteAddr a))) := by
  cases hr : s.rst
  · cases hb : s.busy
    · exact .inr (.inr ⟨rfl, .inl rfl, by simp [hostWrite, hr, hb]⟩)
    · by_cases ht : target (byteAddr a) = .ctrl
      · exact .inr (.inr ⟨rfl, .inr ht, by simp [hostWrite, hr, ht]⟩)
      · exact .inr (.inl ⟨rfl, rfl, ht, by simp [hostWrite, hr, hb, ht]⟩)
  · exact .inl ⟨rfl, by simp [hostWrite, hr]⟩

/-- A host read changes the port's read data and the count of free draws, nothing else (R40). -/
theorem hostRead_changes (a : BitVec 19) (s : State) :
    ∃ v n, hostRead a s = { s with rdata := v, draws := n } ∧ (n = s.draws ∨ n = s.draws + 1) := by
  simp only [hostRead]
  split
  · exact ⟨_, s.draws, rfl, .inl rfl⟩
  · split
    · exact ⟨_, _, rfl, .inr rfl⟩
    · exact ⟨_, s.draws, rfl, .inl rfl⟩

end Sys2Proof.Machine
end

