-- ==== Sys2Proof/Laws/PerInstr.lean ====
section
/-! SUPPORT. Facts stated once for each command: the opcode field of its word is the OP of its row of the opcode map (30_encoding.md R55, R58). -/

namespace Sys2Proof

/-! The fields of a word written in format R or X are what was written. -/

@[simp] theorem opField_formR (op : BitVec 8) (d a b : BitVec 4) (imm : BitVec 12) : opField (formR op d a b imm) = op := by
  apply BitVec.eq_of_getLsbD_eq; intro k hk
  simp only [opField, formR, BitVec.getLsbD_extractLsb', BitVec.getLsbD_append, hk, decide_true, Bool.true_and]
  simp [show ¬ 24 + k < 12 by omega, show ¬ 24 + k - 12 < 4 by omega, show ¬ 24 + k - 12 - 4 < 4 by omega, show ¬ 24 + k - 12 - 4 - 4 < 4 by omega, show 24 + k - 12 - 4 - 4 - 4 = k by omega]

@[simp] theorem opField_formX (op : BitVec 8) (x y : Byte) : opField (formX op x y) = op := by
  apply BitVec.eq_of_getLsbD_eq; intro k hk
  simp only [opField, formX, BitVec.getLsbD_extractLsb', BitVec.getLsbD_append, hk, decide_true, Bool.true_and]
  simp [show ¬ 24 + k < 8 by omega, show ¬ 24 + k - 8 < 8 by omega, show ¬ 24 + k - 8 - 8 < 8 by omega, show 24 + k - 8 - 8 - 8 = k by omega]

/-- The opcode field of a command's word is its row's OP. -/
def Laws.EncodeOpcode.Statement (i : Instr) : Prop := opField (encode i) = (Machine.opcodeRow i).1.extractLsb' 24 8

theorem Laws.EncodeOpcode.nop : Laws.EncodeOpcode.Statement (.nop) := by simp [Laws.EncodeOpcode.Statement, encode, Machine.opcodeRow]
theorem Laws.EncodeOpcode.gfLi (d : EReg) (imm : Byte) : Laws.EncodeOpcode.Statement (.gfLi d imm) := by simp [Laws.EncodeOpcode.Statement, encode, Machine.opcodeRow]
theorem Laws.EncodeOpcode.gfAdd (d : EReg) (a : EReg) (b : EReg) : Laws.EncodeOpcode.Statement (.gfAdd d a b) := by simp [Laws.EncodeOpcode.Statement, encode, Machine.opcodeRow]
theorem Laws.EncodeOpcode.gfMul (d : EReg) (a : EReg) (b : EReg) : Laws.EncodeOpcode.Statement (.gfMul d a b) := by simp [Laws.EncodeOpcode.Statement, encode, Machine.opcodeRow]
theorem Laws.EncodeOpcode.gfInv (d : EReg) (a : EReg) : Laws.EncodeOpcode.Statement (.gfInv d a) := by simp [Laws.EncodeOpcode.Statement, encode, Machine.opcodeRow]
theorem Laws.EncodeOpcode.pZero (d : PReg) : Laws.EncodeOpcode.Statement (.pZero d) := by simp [Laws.EncodeOpcode.Statement, encode, Machine.opcodeRow]
theorem Laws.EncodeOpcode.pOne (d : PReg) : Laws.EncodeOpcode.Statement (.pOne d) := by simp [Laws.EncodeOpcode.Statement, encode, Machine.opcodeRow]
theorem Laws.EncodeOpcode.pMono (d : PReg) (a : EReg) (deg : BitVec 12) : Laws.EncodeOpcode.Statement (.pMono d a deg) := by simp [Laws.EncodeOpcode.Statement, encode, Machine.opcodeRow]
theorem Laws.EncodeOpcode.pLd (d : PReg) (n : BitVec 12) : Laws.EncodeOpcode.Statement (.pLd d n) := by simp [Laws.EncodeOpcode.Statement, encode, Machine.opcodeRow]
theorem Laws.EncodeOpcode.pDeg (a : PReg) : Laws.EncodeOpcode.Statement (.pDeg a) := by simp [Laws.EncodeOpcode.Statement, encode, Machine.opcodeRow]
theorem Laws.EncodeOpcode.pIsz (a : PReg) : Laws.EncodeOpcode.Statement (.pIsz a) := by simp [Laws.EncodeOpcode.Statement, encode, Machine.opcodeRow]
theorem Laws.EncodeOpcode.pCoef (d : EReg) (a : PReg) (k : BitVec 12) : Laws.EncodeOpcode.Statement (.pCoef d a k) := by simp [Laws.EncodeOpcode.Statement, encode, Machine.opcodeRow]
theorem Laws.EncodeOpcode.pEval (d : EReg) (a : PReg) (b : EReg) : Laws.EncodeOpcode.Statement (.pEval d a b) := by simp [Laws.EncodeOpcode.Statement, encode, Machine.opcodeRow]
theorem Laws.EncodeOpcode.pAdd (d : PReg) (a : PReg) (b : PReg) : Laws.EncodeOpcode.Statement (.pAdd d a b) := by simp [Laws.EncodeOpcode.Statement, encode, Machine.opcodeRow]
theorem Laws.EncodeOpcode.pMul (d : PReg) (a : PReg) (b : PReg) : Laws.EncodeOpcode.Statement (.pMul d a b) := by simp [Laws.EncodeOpcode.Statement, encode, Machine.opcodeRow]
theorem Laws.EncodeOpcode.pMuls (d : PReg) (a : PReg) (b : EReg) : Laws.EncodeOpcode.Statement (.pMuls d a b) := by simp [Laws.EncodeOpcode.Statement, encode, Machine.opcodeRow]
theorem Laws.EncodeOpcode.pMulm (d : PReg) (a : PReg) (b : EReg) (deg : BitVec 12) : Laws.EncodeOpcode.Statement (.pMulm d a b deg) := by simp [Laws.EncodeOpcode.Statement, encode, Machine.opcodeRow]
theorem Laws.EncodeOpcode.pDiv (q : PReg) (r : PReg) (a : PReg) (b : PReg) : Laws.EncodeOpcode.Statement (.pDiv q r a b) := by simp [Laws.EncodeOpcode.Statement, encode, Machine.opcodeRow]
theorem Laws.EncodeOpcode.tQq : Laws.EncodeOpcode.Statement (.tQq) := by simp [Laws.EncodeOpcode.Statement, encode, Machine.opcodeRow]
theorem Laws.EncodeOpcode.tMap (n : BitVec 12) : Laws.EncodeOpcode.Statement (.tMap n) := by simp [Laws.EncodeOpcode.Statement, encode, Machine.opcodeRow]
theorem Laws.EncodeOpcode.sNudge (n : BitVec 12) : Laws.EncodeOpcode.Statement (.sNudge n) := by simp [Laws.EncodeOpcode.Statement, encode, Machine.opcodeRow]
theorem Laws.EncodeOpcode.sGrid (dim : BitVec 12) : Laws.EncodeOpcode.Statement (.sGrid dim) := by simp [Laws.EncodeOpcode.Statement, encode, Machine.opcodeRow]
theorem Laws.EncodeOpcode.sQuad (dim : BitVec 12) : Laws.EncodeOpcode.Statement (.sQuad dim) := by simp [Laws.EncodeOpcode.Statement, encode, Machine.opcodeRow]
theorem Laws.EncodeOpcode.mInit (dim : BitVec 12) : Laws.EncodeOpcode.Statement (.mInit dim) := by simp [Laws.EncodeOpcode.Statement, encode, Machine.opcodeRow]
theorem Laws.EncodeOpcode.mSet (x : Byte) (y : Byte) : Laws.EncodeOpcode.Statement (.mSet x y) := by simp [Laws.EncodeOpcode.Statement, encode, Machine.opcodeRow]
theorem Laws.EncodeOpcode.mGet (x : Byte) (y : Byte) : Laws.EncodeOpcode.Statement (.mGet x y) := by simp [Laws.EncodeOpcode.Statement, encode, Machine.opcodeRow]
theorem Laws.EncodeOpcode.dNew : Laws.EncodeOpcode.Statement (.dNew) := by simp [Laws.EncodeOpcode.Statement, encode, Machine.opcodeRow]
theorem Laws.EncodeOpcode.dRdbit (x : Byte) (y : Byte) : Laws.EncodeOpcode.Statement (.dRdbit x y) := by simp [Laws.EncodeOpcode.Statement, encode, Machine.opcodeRow]
theorem Laws.EncodeOpcode.dFmt : Laws.EncodeOpcode.Statement (.dFmt) := by simp [Laws.EncodeOpcode.Statement, encode, Machine.opcodeRow]
theorem Laws.EncodeOpcode.dVer : Laws.EncodeOpcode.Statement (.dVer) := by simp [Laws.EncodeOpcode.Statement, encode, Machine.opcodeRow]
theorem Laws.EncodeOpcode.dUnmask (m : BitVec 3) : Laws.EncodeOpcode.Statement (.dUnmask m) := by simp [Laws.EncodeOpcode.Statement, encode, Machine.opcodeRow]
theorem Laws.EncodeOpcode.dCw : Laws.EncodeOpcode.Statement (.dCw) := by simp [Laws.EncodeOpcode.Statement, encode, Machine.opcodeRow]

end Sys2Proof
end

