-- ==== Sys2Proof/Tests/Slice0.lean ====
section
/-! SUPPORT. Tests. Expected values are the spec's own examples (each rule's Example line, 95_test_vectors.md) or are worked out by hand from the rule named. The witnesses at the end show that the hypotheses of the statements can be met. -/

namespace Sys2Proof.Tests
open Sys2Proof Sys2Proof.Machine
set_option Elab.async false

/-! ## Well-formedness and decoding -/

/-- R59 case 4: P.DIV with one register for both results is no command. -/
theorem test_wellFormed_refuses_equal_results : (Instr.pDiv 3 3 0 1).wellFormed = false := by decide
theorem test_wellFormed_accepts_pdiv : (Instr.pDiv 3 2 3 3).wellFormed = true := by decide
theorem test_wellFormed_accepts_nop : Instr.nop.wellFormed = true := by decide

/-! Words from the spec's examples, or put together from R56 and R58. -/

theorem test_decode_nop : decode 0x00000000#32 = .ok .nop := by decide
theorem test_decode_gfLi : decode 0x10100053#32 = .ok (.gfLi 1 0x53#8) := by decide
theorem test_decode_gfAdd : decode 0x11401000#32 = .ok (.gfAdd 4 0 1) := by decide
theorem test_decode_gfMul : decode 0x12201000#32 = .ok (.gfMul 2 0 1) := by decide
theorem test_decode_gfInv : decode 0x13300000#32 = .ok (.gfInv 3 0) := by decide
theorem test_decode_pZero : decode 0x20700000#32 = .ok (.pZero 7) := by decide
theorem test_decode_pOne : decode 0x21100000#32 = .ok (.pOne 1) := by decide
theorem test_decode_pMono : decode 0x22210003#32 = .ok (.pMono 2 1 3#12) := by decide
theorem test_decode_pLd : decode 0x23300004#32 = .ok (.pLd 3 4#12) := by decide
theorem test_decode_pDeg : decode 0x24030000#32 = .ok (.pDeg 3) := by decide
theorem test_decode_pIsz : decode 0x25000000#32 = .ok (.pIsz 0) := by decide
theorem test_decode_pCoef : decode 0x26530000#32 = .ok (.pCoef 5 3 0#12) := by decide
theorem test_decode_pEval : decode 0x27637000#32 = .ok (.pEval 6 3 7) := by decide
theorem test_decode_pAdd : decode 0x28432000#32 = .ok (.pAdd 4 3 2) := by decide
theorem test_decode_pMul : decode 0x29533000#32 = .ok (.pMul 5 3 3) := by decide
theorem test_decode_pMuls : decode 0x2A631000#32 = .ok (.pMuls 6 3 1) := by decide
theorem test_decode_pMulm : decode 0x2B731002#32 = .ok (.pMulm 7 3 1 2#12) := by decide
theorem test_decode_pDiv : decode 0x2C043001#32 = .ok (.pDiv 0 1 4 3) := by decide
theorem test_decode_tQq : decode 0x40000000#32 = .ok .tQq := by decide
theorem test_decode_tMap : decode 0x41000006#32 = .ok (.tMap 6#12) := by decide
theorem test_decode_sNudge : decode 0x50000003#32 = .ok (.sNudge 3#12) := by decide
theorem test_decode_sGrid : decode 0x51000015#32 = .ok (.sGrid 21#12) := by decide
theorem test_decode_sQuad : decode 0x52000015#32 = .ok (.sQuad 21#12) := by decide
theorem test_decode_mInit : decode 0x60000015#32 = .ok (.mInit 21#12) := by decide
theorem test_decode_mSet : decode 0x61000304#32 = .ok (.mSet 3#8 4#8) := by decide
theorem test_decode_mGet : decode 0x62000304#32 = .ok (.mGet 3#8 4#8) := by decide
theorem test_decode_dNew : decode 0x70000000#32 = .ok .dNew := by decide
theorem test_decode_dRdbit : decode 0x71000802#32 = .ok (.dRdbit 8#8 2#8) := by decide
theorem test_decode_dFmt : decode 0x72000000#32 = .ok .dFmt := by decide
theorem test_decode_dVer : decode 0x73000000#32 = .ok .dVer := by decide
theorem test_decode_dUnmask : decode 0x74000002#32 = .ok (.dUnmask 2#3) := by decide
theorem test_decode_dCw : decode 0x75000000#32 = .ok .dCw := by decide

/-- The four cases of R59: 0x14 is unassigned, IMM[11:8] of GF.LI, register 8, one register twice. -/
theorem test_decode_unassigned : decode 0x14000000#32 = .error .unassignedOpcode := by decide
theorem test_decode_reserved : decode 0x10000153#32 = .error .reservedField := by decide
theorem test_decode_no_such_register : decode 0x20800000#32 = .error .noSuchPolyRegister := by decide
theorem test_decode_equal_results : decode 0x2C201002#32 = .error .quotientIsRemainder := by decide
/-- R57: a negative degree is written as its value, −1 as 0xFFF. -/
theorem test_encode_negative_degree : encode (.pMono 1 2 (-1)) = 0x22120FFF#32 := by decide
theorem test_decodeTableWord : decodeTableWord 32 0x13300000 = some (.gfInv 3 0) := by decide

/-! ## One step of each command -/

/-- What a command leaves in one part of the state. -/
def after {α : Type} (i : Instr) (s : State) (f : State → α) : Option α :=
  match exec i s with
  | .next t => some (f t)
  | _ => none

/-- ERRCODE, ERRINFO0 and ERRINFO1. -/
def record (s : State) : Byte × Word × Word := (s.errCode, s.errInfo0, s.errInfo1)

/-- BM with the listed modules set. -/
def modules (ps : List (Nat × Nat)) : BitMatrix := ps.foldl (fun m p => m.setOne p.1 p.2) ⟨0#31329⟩

/-- The rows of the synthetic version 1 matrix of 95_test_vectors.md. -/
def v1Rows : List Nat :=
  [0x1400, 0xA00, 0x1500, 0xA00, 0x1400, 0xA00, 0, 0xB00, 0x1DF5B7, 0xAAAAA, 0x155515, 0xAAAAA, 0x155515, 0xAAA00,
   0x155500, 0xAAA00, 0x155400, 0xAAA00, 0x155500, 0xAAA00, 0x155400]
def v1Matrix : BitMatrix := matrixOf (fun y => BitVec.ofNat 177 (v1Rows.getD y 0)) 21

/-- 0.5, 3.5, 7, 17.5, 35, 196, 392 as encodings. -/
def f05 : F64 := 0x3FE0000000000000#64
def f35 : F64 := 0x400C000000000000#64
def f7 : F64 := 0x401C000000000000#64
def f175 : F64 := 0x4031800000000000#64
def f350 : F64 := 0x4041800000000000#64
def f196 : F64 := 0x4068800000000000#64
def f392 : F64 := 0x4078800000000000#64

/-- The transform of the T.QQ example (R107). -/
def exampleT : Transform := ⟨f392, 0#64, 0#64, 0#64, f392, 0#64, 0#64, 0#64, f196⟩

/-- A state in the middle of a command with every kind of operand present: the registers of the spec's examples, Q and T of R107, a 42 × 42 image whose pixel (1, 1) is on, a matrix of dimension 21. -/
def rich : State :=
  { State.reset with
    e := #v[0x53, 0xCA, 5, 0, 0, 0, 0, 2, 0, 0, 0, 0, 0, 0, 0, 1], ev := 0xFFFF#16
    p := #v[[0], [1], [5, 0, 0, 0], [7, 1], [5, 0, 7, 1], [1], [3], [7, 1]], pv := 0xFF#8
    t := exampleT, tv := true
    q := #v[f35, f35, f175, f35, f175, f175, f35, f175, f7, f7, f350, f7, f350, f350, f7, f350]
    mem := ⟨0, [(0x2008, 7), (0x200C, 1), (0x100005, 0x08)]⟩
    imgW := 42#12, imgH := 42#12, bmDim := 21#32, bm := modules [(8, 0), (8, 2)], busy := true, cmdLatch := 0x75000000#32 }

/-- Nothing is valid. -/
def bare : State := { State.reset with busy := true, cmdLatch := 0x13300000#32 }

theorem test_nop : after .nop bare (fun t => (t.busy, t.done, t.err)) = some (false, true, false) := by decide +kernel
theorem test_gfLi : after (.gfLi 1 0x53#8) bare (fun t => (t.e[1], t.ev)) = some (0x53#8, 2#16) := by decide +kernel
theorem test_gfAdd : after (.gfAdd 4 0 1) rich (fun t => t.e[4]) = some 0x99#8 := by decide +kernel
theorem test_gfMul : after (.gfMul 2 0 1) rich (fun t => t.e[2]) = some 0x8F#8 := by decide +kernel
theorem test_gfMul_order : after (.gfMul 2 0 1) bare record = some (0x09#8, 0x100#32, 0#32) := by decide +kernel
theorem test_gfInv : after (.gfInv 0 0) rich (fun t => t.e[0]) = some 0x8C#8 := by decide +kernel
theorem test_gfInv_zero : after (.gfInv 0 3) rich record = some (0x07#8, 1#32, 0#32) := by decide +kernel
theorem test_pZero : after (.pZero 3) bare (fun t => (t.p[3], t.pv)) = some ([0], 8#8) := by decide +kernel
theorem test_pOne : after (.pOne 1) bare (fun t => t.p[1]) = some [1] := by decide +kernel
theorem test_pMono : after (.pMono 2 2 3#12) rich (fun t => t.p[2]) = some [5, 0, 0, 0] := by decide +kernel
theorem test_pMono_negative : after (.pMono 2 3 (-1)) rich record = some (0x07#8, 2#32, 0#32) := by decide +kernel
theorem test_pLd : after (.pLd 0 4#12) rich (fun t => t.p[0]) = some [7, 1] := by decide +kernel
theorem test_pDeg : after (.pDeg 4) rich (fun t => t.res) = some 3#32 := by decide +kernel
theorem test_pIsz : after (.pIsz 0) rich (fun t => t.res) = some 1#32 := by decide +kernel
theorem test_pCoef : after (.pCoef 5 4 1#12) rich (fun t => t.e[5]) = some 7#8 := by decide +kernel
theorem test_pCoef_above : after (.pCoef 5 4 4#12) rich record = some (0x0A#8, 3#32, 0#32) := by decide +kernel
theorem test_pEval : after (.pEval 6 3 7) rich (fun t => t.e[6]) = some 0x0F#8 := by decide +kernel
theorem test_pAdd : after (.pAdd 4 3 2) rich (fun t => t.p[4]) = some [5, 0, 7, 1] := by decide +kernel
theorem test_pMul : after (.pMul 5 3 3) rich (fun t => t.p[5]) = some [0x15, 0, 1] := by decide +kernel
theorem test_pMuls : after (.pMuls 6 3 2) rich (fun t => t.p[6]) = some [0x1B, 5] := by decide +kernel
theorem test_pMulm : after (.pMulm 7 3 2 2#12) rich (fun t => t.p[7]) = some [0x1B, 5, 0, 0] := by decide +kernel
/-- PV7 of 95_test_vectors.md: the results go to the sources' registers. -/
theorem test_pDiv : after (.pDiv 4 3 4 3) rich (fun t => (t.p[4], t.p[3])) = some ([0x68, 0xC6, 0x44], [0x45]) := by decide +kernel
theorem test_pDiv_by_zero : after (.pDiv 1 2 4 0) rich record = some (0x07#8, 3#32, 0#32) := by decide +kernel

/-- `rich` with values at the front of PT. -/
def withPoints (vs : List F64) : State := { rich with mem := writePoints rich.mem 0 vs }
/-- −0.5, 10, 20, 42.7, 41.2 and 41: the S.NUDGE example (R114). -/
def nudgeExample : List F64 :=
  [0xBFE0000000000000#64, 0x4024000000000000#64, 0x4034000000000000#64, 0x4034000000000000#64, 0x404559999999999A#64, 0x404499999999999A#64]

theorem test_tQq : after .tQq { rich with tv := false, t := Transform.zero } (fun t => (t.t, t.tv)) = some (exampleT, true) := by decide +kernel
/-- The T.MAP example's points (3.5, 3.5) and (17.5, 17.5); the entry behind them stays. -/
theorem test_tMap : after (.tMap 2#12) (withPoints [f35, f35, f175, f175, f05])
    (fun t => (t.pt 0, t.pt 1, t.pt 2, t.pt 3, t.pt 4)) = some (f7, f7, f350, f350, f05) := by decide +kernel
theorem test_sNudge : after (.sNudge 3#12) (withPoints nudgeExample) (fun t => (t.pt 0, t.pt 1, t.pt 4, t.pt 5)) =
    some (0#64, 0x4024000000000000#64, 0x4044800000000000#64, 0x404499999999999A#64) := by decide +kernel
/-- R115: BM(0, 0) = PIX[1 + 42·1] under the example's transform; the next two pixels are off. -/
theorem test_sGrid_row : (gridRow rich exampleT 3 0).toOption = some 1#177 := by decide +kernel
/-- R148: the structural check of S.QUAD comes before the image check. -/
theorem test_sQuad_order : after (.sQuad 24#12) { rich with imgW := 0#12 } record = some (0x01#8, 24#32, 0#32) := by decide +kernel
theorem test_mInit : after (.mInit 21#12) { rich with fmt := 1#32 } (fun t => (t.bm.bits, t.bmDim, t.fmt)) = some (0, 21#32, 0#32) := by decide +kernel
theorem test_mInit_bad : after (.mInit 22#12) rich record = some (0x01#8, 22#32, 0#32) := by decide +kernel
theorem test_mSet : after (.mSet 3#8 4#8) rich (fun t => (t.bm.get 3 4, t.bm.get 4 3, t.bm.get 8 0)) = some (true, false, true) := by decide +kernel
theorem test_mGet : after (.mGet 8#8 2#8) rich (fun t => t.res) = some 1#32 := by decide +kernel
theorem test_mGet_outside : after (.mGet 8#8 21#8) rich record = some (0x0A#8, 5#32, 0#32) := by decide +kernel
theorem test_dNew : after .dNew { rich with fmt := 0x80000008#32, acc := 9#32 } (fun t => (t.fmt, t.acc, t.bmDim)) = some (0#32, 0#32, 21#32) := by decide +kernel
theorem test_dRdbit : after (.dRdbit 8#8 2#8) { rich with acc := 0x80000002#32 } (fun t => t.acc) = some 5#32 := by decide +kernel
theorem test_dFmt : after .dFmt { rich with bm := v1Matrix } (fun t => t.fmt) = some 0x80000008#32 := by decide +kernel
theorem test_dVer : after .dVer { rich with bmDim := 25#32 } (fun t => t.ver) = some 0x80000002#32 := by decide +kernel
/-- R132: word 0 of row 0 after D.UNMASK 2. -/
theorem test_dUnmask : after (.dUnmask 2#3) { rich with bm := ⟨0⟩ } (fun t => ((t.bm.row 0).setWidth 32 : Word)) = some 0x00049249#32 := by decide +kernel
theorem test_dCw : after .dCw { rich with bm := v1Matrix, cwCount := 3#32 } (fun t => (t.fmt, t.ver, t.cwCount)) =
    some (0x80000008#32, 0x80000001#32, 26#32) := by decide +kernel
/-- R133: the codewords of a second D.CW, the mask pattern. -/
theorem test_dCw_again : (walk standard v1Matrix 1 21).take 4 = [153, 153, 153, 102] := by decide +kernel

/-! ## The host's side and the step -/

/-- The state after one step, `bare` where there is none. -/
def stepped (s : State) : State :=
  match step s with
  | .next t => t
  | _ => bare

/-- R157: GF.INV of an element that is not valid. -/
theorem test_step_error : (stepped bare).status = 0x00000906#32 ∧ (stepped bare).errCmd = 0x13300000#32 ∧
    (stepped bare).errInfo0 = 0x100#32 := by decide +kernel
/-- R157: a command while the error is latched, then CLR_ERR. -/
theorem test_drop_and_clear : (hostWrite 6#19 0x10000053#32 (stepped bare)).status = 0x0000090E#32 ∧
    (hostWrite 1#19 0x100#32 (hostWrite 6#19 0x10000053#32 (stepped bare))).status = 0x00000002#32 := by decide +kernel
/-- R171: M.INIT 21 from reset, STATUS, BM_DIM and VALID. -/
theorem test_first_command : (stepped (hostWrite 6#19 0x60000015#32 State.reset)).status = 2#32 ∧
    (hostRead 11#19 (stepped (hostWrite 6#19 0x60000015#32 State.reset))).rdata = 21#32 ∧
    (hostRead 15#19 (stepped (hostWrite 6#19 0x60000015#32 State.reset))).rdata = 0x02000000#32 := by decide +kernel
/-- R171: SOFT_RESET. -/
theorem test_soft_reset : (hostWrite 1#19 0x80000000#32 rich).bmDim = 0#32 ∧ (hostWrite 1#19 0x80000000#32 rich).status = 0#32 := by decide +kernel
theorem test_read_id : (hostRead 0#19 State.reset).rdata = 0x4A515207#32 := by decide +kernel
/-- R41: a write while BUSY. -/
theorem test_busy_write : (hostWrite 0x41#19 5#32 rich).drop = true ∧ (hostWrite 0x41#19 5#32 rich).e[1] = 0xCA#8 := by decide +kernel
/-- PW1 of 95_test_vectors.md: the P window, here of P3 = [7, 1]. -/
theorem test_poly_window : (hostRead 0x1C00#19 { rich with busy := false }).rdata = 2#32 ∧
    (hostRead 0x1C01#19 { rich with busy := false }).rdata = 7#32 ∧ (hostRead 0x1C03#19 { rich with busy := false }).rdata = 0#32 := by decide +kernel
/-- The word that the host stores for a step is the one the next step runs. -/
theorem test_withFetchWord : (stepped (State.reset.withFetchWord 32 0x10100053)).e[1] = 0x53#8 := by decide +kernel

/-! ## Witnesses: the hypotheses of each statement are met, clause by clause -/

/-- `rich` with no command in progress. -/
def quiet : State := { rich with busy := false }
/-- An error is latched. -/
def stuck : State := State.reset.failed 0x09#8 0x100#32 0#32
/-- The hardware reset is held. -/
def heldReset : State := { State.reset with rst := true }

theorem witness_EncodeThenDecode : (Instr.pDiv 7 6 7 7).wellFormed = true := by decide
theorem witness_DecodeThenEncode : decode 0x2B77FFFF#32 = .ok (.pMulm 7 7 15 0xFFF#12) := by decide
/-- A row's word at the ends of its fields, a word of no row, and the P.DIV word that names one register twice. -/
theorem witness_LegalWordsFollowOpcodeMap :
    decode 0x2C777006#32 = .ok (.pDiv 7 6 7 7) ∧
    (0x2C777006#32 &&& (opcodeRow (.pDiv 0 0 0 0)).2 = (opcodeRow (.pDiv 0 0 0 0)).1 ∧
      opField 0x2C777006#32 = 0x2C#8 ∧ dField 0x2C777006#32 ≠ (immField 0x2C777006#32).extractLsb' 0 4) ∧
    (opField 0x2C777007#32 = 0x2C#8 ∧ dField 0x2C777007#32 = (immField 0x2C777007#32).extractLsb' 0 4) := by decide
theorem noRow (j : Instr) : 0x14000000#32 &&& (opcodeRow j).2 ≠ (opcodeRow j).1 := by
  cases j <;> (simp only [opcodeRow]; decide)
theorem witness_LegalWordsFollowOpcodeMap_none : ∀ j : Instr, 0x14000000#32 &&& (opcodeRow j).2 ≠ (opcodeRow j).1 := noRow
theorem witness_IllegalWordsRaise :
    (∀ j : Instr, ({ bare with cmdLatch := 0x14000000#32 } : State).cmdLatch &&& (opcodeRow j).2 ≠ (opcodeRow j).1) ∧
    bare.inputs = [] ∧ bare.rst = false ∧ bare.busy = true := ⟨noRow, by decide⟩
theorem witness_IllegalWordsRaise_pdiv :
    opField ({ bare with cmdLatch := 0x2C201002#32 } : State).cmdLatch = 0x2C#8 ∧
    dField ({ bare with cmdLatch := 0x2C201002#32 } : State).cmdLatch =
      (immField ({ bare with cmdLatch := 0x2C201002#32 } : State).cmdLatch).extractLsb' 0 4 := by decide
theorem witness_StepRunsTheCommand :
    (bare.inputs = [] ∧ bare.rst = false ∧ bare.busy = true ∧ decode bare.cmdLatch = .ok (.gfInv 3 0)) ∧
    (({ bare with inputs := [.blockTurn] } : State).inputs = .blockTurn :: [] ∧
      decode ({ bare with inputs := [.blockTurn] } : State).cmdLatch = .ok (.gfInv 3 0)) ∧
    (State.reset.inputs = [] ∧ State.reset.busy = false) ∧ (heldReset.inputs = [] ∧ heldReset.rst = true) ∧
    ({ bare with inputs := [.read 2] } : State).inputs = .read 2 :: [] ∧
    ({ bare with inputs := [.write 6 0] } : State).inputs = .write 6 0 :: [] ∧
    ({ bare with inputs := [.rst true] } : State).inputs = .rst true :: [] := by decide
theorem witness_CommandOffer : (State.reset.idle ∧ State.reset.err = false) ∧ (stuck.idle ∧ stuck.err = true) ∧
    (1#19 ≠ 6#19 ∧ 0x5FFFF#19 ≠ 6#19) := by decide
theorem witness_BusyAccesses : bare.rst = false ∧ bare.busy = true ∧ (0#19 ≠ 1#19) ∧ (0x7FFFF#19 ≠ 1#19) ∧ 2#19 < 3#19 ∧
    2#19 < 0x7FFFF#19 ∧ (0x100#32).getLsbD 31 = false ∧ (0x80000000#32).getLsbD 31 = true := by decide
theorem witness_HostAccessRules : quiet.idle ∧ hostWritable (0#19).toNat = false ∧ hostWritable (0x3426#19).toNat = false ∧
    hostUnmapped (0x10#19).toNat = true ∧ hostUnmapped (0x7FFFF#19).toNat = true := by decide +kernel
theorem witness_ControlWriteAndErrorClear : State.reset.rst = false ∧ (0x303#32).getLsbD 31 = false ∧
    (0x80000000#32).getLsbD 31 = true ∧ (0xFFFFFFFF#32).getLsbD 31 = true ∧ (0x100#32).getLsbD 8 = true ∧
    (0x100#32).getLsbD 31 = false ∧ stuck.rst = false ∧ stuck.idle := by decide
theorem witness_SoftReset : rich.rst = false ∧ (0x80000301#32).getLsbD 31 = true := by decide +kernel
theorem witness_ResetInput : heldReset.rst = true ∧ rich.rst = false := by decide +kernel
theorem witness_StatusAndValid : rich.rst = false ∧ quiet.idle := by decide +kernel
theorem witness_ScalarRegisters : quiet.idle := by decide +kernel
theorem witness_ElementWindow : quiet.idle ∧ (hostWrite (0x40#19 + (15#4).setWidth 19) 0x1FF#32 quiet).e[15] = 0xFF#8 := by decide +kernel
theorem witness_DoubleHalves : quiet.idle ∧ 0 < 9 ∧ 8 < 9 ∧ (hostWrite 0x9F#19 0x400C0000#32 quiet).q[15] = f35 ∧
    (hostWrite 0x7FF#19 0x40788000#32 quiet).pt 511 = f392 := by decide +kernel
theorem rich_wf : rich.mem.wf := by
  refine ⟨by decide +kernel, ?_⟩
  intro c hc
  have : c = (0x2008, 7#8) ∨ c = (0x200C, 1#8) ∨ c = (0x100005, 0x08#8) := by simpa [rich] using hc
  rcases this with rfl | rfl | rfl <;> simp [Memory.unlisted, rich]
theorem witness_DoubleHalves_points : quiet.idle ∧ quiet.mem.wf := ⟨by decide +kernel, rich_wf⟩
theorem witness_ByteAndPixelWindows : quiet.idle ∧ quiet.mem.wf ∧ 0 < 131072 ∧ 131071 < 131072 :=
  ⟨by decide +kernel, rich_wf, by decide, by decide⟩
theorem witness_PolynomialWindow : quiet.idle ∧ 0 < 1024 ∧ 1023 < 1024 := by decide +kernel
theorem witness_MatrixWindow : quiet.idle ∧ 176 < 177 ∧ 5 < 6 ∧
    (hostWrite (BitVec.ofNat 19 (0x3000 + 6 * 176 + 5)) 0x10000#32 quiet).bm.get 176 176 = true := by decide +kernel
theorem witness_CodewordWindow : quiet.idle ∧ 926 < 927 := by decide +kernel

/-- The invariants hold in a state with a command in progress and every register in use. -/
theorem rich_inv : rich.Inv where
  canonical := rich_wf
  exists_ := by
    intro c hc
    have : c = (0x2008, 7#8) ∨ c = (0x200C, 1#8) ∨ c = (0x100005, 0x08#8) := by simpa [rich] using hc
    rcases this with rfl | rfl | rfl <;> decide
  polys := by decide +kernel
  transform := by decide +kernel
  dim := by decide +kernel
  format := .inl rfl
  version := .inl rfl
  count := by decide +kernel
  noRecord := fun _ => ⟨rfl, rfl, rfl, rfl⟩
  record := by decide +kernel
  inProgress := fun _ => ⟨rfl, rfl⟩
  held := by decide +kernel
theorem stuck_inv : stuck.Inv where
  canonical := Memory.reset_wf
  exists_ := by intro c hc; simp [stuck, State.failed, State.reset] at hc
  polys := by decide +kernel
  transform := by decide
  dim := .inl rfl
  format := .inl rfl
  version := .inl rfl
  count := by decide
  noRecord := by decide
  record := fun _ => by decide
  inProgress := by decide
  held := by decide
/-- What `step` gives, as an equation. -/
theorem step_of {s : State} {f : State → Bool} (h : (match step s with | .next t => f t | _ => false) = true) :
    ∃ t, step s = .next t ∧ f t = true := by
  split at h
  · exact ⟨_, by assumption, h⟩
  · cases h
theorem rich_steps : ∃ t, step rich = .next t ∧ t.done = true := step_of (by decide +kernel)
theorem witness_StepKeepsInvariant : rich.Inv ∧ ∃ t, step rich = .next t := ⟨rich_inv, rich_steps.imp fun _ h => h.1⟩
theorem witness_ErrorRecordSticky : stuck.Inv ∧ stuck.err = true ∧ stuck.resetNext = false ∧ stuck.clearNext = false ∧
    step stuck = .next stuck := ⟨stuck_inv, rfl, rfl, rfl, rfl⟩

/-- What `exec` gives, as an equation. -/
theorem exec_of_after {i : Instr} {s : State} {f : State → Bool} (h : after i s f = some true) :
    ∃ t, exec i s = .next t ∧ f t = true := by
  unfold after at h
  split at h
  · exact ⟨_, by assumption, by simpa using h⟩
  · cases h
theorem witness_CommandFootprint : (∃ t, exec (.gfLi 15 0#8) rich = .next t) ∧ destinationE (.gfLi 15 0#8) ≠ some 14 ∧
    (0 : PReg) ∉ destinationsP (.pDiv 6 7 0 0) ∧ (∃ t, exec .dCw { rich with bm := v1Matrix } = .next t) :=
  ⟨⟨_, rfl⟩, by decide, by decide, by
    have h : after .dCw { rich with bm := v1Matrix } (fun t => !t.err) = some true := by decide +kernel
    obtain ⟨t, ht, _⟩ := exec_of_after h
    exact ⟨t, ht⟩⟩
theorem witness_ValidBitsClearedOnlyByReset : (∃ t, step rich = .next t) ∧ rich.resetNext = false ∧ rich.validE 15 ∧
    rich.validP 7 ∧ rich.tv = true := ⟨rich_steps.imp fun _ h => h.1, by decide +kernel⟩
theorem witness_MemosClearedOnlyBy : ∃ s t : State, step s = .next t ∧ s.resetNext = false ∧ (∀ i, s.runs i → ¬ clearsMemos i) ∧
    s.fv = true ∧ s.vv = true ∧ s.bmDim ≠ 0#32 :=
  ⟨{ rich with fmt := 0x80000008#32, ver := 0x80000001#32, busy := false }, _, rfl, rfl,
    fun i h => absurd h.2.2.1 (by simp), by decide +kernel⟩
theorem witness_CodewordsOutliveTheirMatrix : ∃ s t : State, step s = .next t ∧ s.resetNext = false ∧ (s.runs .dCw → s.err = false ∧ t.err = true) :=
  ⟨{ rich with busy := false }, _, rfl, rfl, fun h => absurd h.2.2.1 (by simp)⟩
/-- A D.CW that fails: there is no matrix. -/
theorem witness_CodewordsOutliveTheirMatrix_failed : ({ rich with bmDim := 0#32 } : State).runs .dCw ∧ rich.err = false ∧
    ∃ t, step { rich with bmDim := 0#32 } = .next t ∧ t.err = true :=
  ⟨⟨.inl rfl, rfl, rfl, by decide +kernel⟩, rfl, step_of (by decide +kernel)⟩
theorem witness_ControlAndFieldResults : rich.validE 15 ∧ rich.validE 0 ∧ rich.valueE 15 ≠ 0#8 := by decide +kernel
theorem witness_MultiplicationTableForm : 254 < 255 ∧ (255#8 ≠ 0#8) := by decide
theorem witness_FieldLawsAndInverse : 255#8 ≠ 0#8 ∧ gfMul fieldPoly 0#8 5#8 = 0#8 ∧ gfMul fieldPoly 0x53#8 0x8C#8 = 1#8 ∧ 0 < 255 ∧ 254 < 255 ∧
    rich.validE 3 ∧ rich.valueE 3 = 0#8 := by decide +kernel
theorem witness_FieldLawsAndInverse_field : irreducibleDegree8 fieldPoly := fieldPoly_irreducible
/-- Another irreducible polynomial of degree 8, x⁸ + x⁴ + x³ + x + 1, gives another product; x⁸ is not irreducible. -/
theorem test_other_field : gfMul 0x11B#9 0x53#8 0xCA#8 = 1#8 ∧ gfMul fieldPoly 0x53#8 0xCA#8 = 0x8F#8 ∧ carryless 2 8 128 = 0x100 := by decide +kernel
theorem witness_PolynomialConstruction : rich.validE 3 ∧ rich.valueE 3 = 0#8 ∧ 0 ≤ (0x7FF#12).toInt ∧ rich.valueE 15 ≠ 0#8 ∧
    (511#12).toInt ≤ 511 ∧ 1 ≤ (1#12).toNat ∧ (512#12).toNat ≤ 512 := by decide +kernel
theorem witness_PolynomialAccess : rich.validP 4 ∧ 0 ≤ (3#12).toInt ∧ (3#12).toInt < (rich.valueP 4).length ∧ rich.validE 15 := by decide +kernel
theorem witness_PolynomialArithmetic : rich.validP 4 ∧ rich.validP 3 ∧ rich.valueP 0 = [0#8] ∧
    (rich.valueP 4).length + (rich.valueP 3).length ≤ 513 ∧ rich.validE 2 ∧ 0 ≤ (508#12).toInt ∧
    (pmulm fieldPoly (rich.valueP 4) (rich.valueE 2) (508#12).toNat).length ≤ 512 ∧ rich.valueP 3 ≠ [0#8] ∧ (7 : PReg) ≠ 6 := by decide +kernel
/-- `rich` with a 512-coefficient polynomial in P7. -/
def long : State := { rich with p := rich.p.set 7 (List.replicate 512 1#8) }
theorem witness_FieldAndPolynomialTraps : ¬ bare.validE 15 ∧ ({ bare with ev := 1#16 } : State).validE 0 ∧
    ¬ ({ bare with ev := 1#16 } : State).validE 1 ∧ rich.validE 3 ∧ rich.valueE 3 = 0#8 ∧ (0x800#12).toInt < 0 ∧
    rich.valueE 15 ≠ 0#8 ∧ 512 ≤ (512#12).toInt ∧ (0#12).toNat = 0 ∧ 512 < (513#12).toNat ∧ ¬ bare.validP 7 ∧
    ({ bare with pv := 1#8 } : State).validP 0 ∧ ¬ ({ bare with pv := 1#8 } : State).validP 1 ∧
    (({ bare with pv := 1#8 } : State).validP 0 ∧ ¬ ({ bare with pv := 1#8 } : State).validE 0) := by decide +kernel
theorem witness_FieldAndPolynomialTraps_values : rich.validP 4 ∧ ((rich.valueP 4).length : Int) - 1 < (4#12).toInt ∧
    (long.validP 7 ∧ long.validP 4 ∧ long.valueP 7 ≠ [0#8] ∧ long.valueP 4 ≠ [0#8] ∧ 513 < (long.valueP 7).length + (long.valueP 4).length) ∧
    (long.validE 2 ∧ 0 ≤ (1#12).toInt ∧ 512 < (pmulm fieldPoly (long.valueP 7) (long.valueE 2) (1#12).toNat).length) ∧
    (rich.validP 0 ∧ rich.valueP 0 = [0#8] ∧ (1 : PReg) ≠ 2) := by decide +kernel
theorem witness_Canonicalisation : [0#8, 0, 7] ≠ [] ∧ 1 ≤ 1 ∧ canonical [7#8, 1] ∧ canonical [0#8] := by decide
theorem witness_AdditionCoefficients : canonical [7#8, 1] ∧ canonical [5#8, 0, 0, 0] ∧ canonical [0#8] := by decide
theorem witness_ProductCoefficients : canonical [7#8, 1] ∧ canonical [0#8] ∧ [7#8, 1] ≠ [0#8] ∧ (5#8 ≠ 0#8) := by decide
theorem witness_EvaluationHomomorphism : canonical [7#8, 1] ∧ canonical [0#8] := by decide
theorem witness_EuclideanDivision : canonical [5#8, 0, 7, 1] ∧ canonical [7#8, 1] ∧ [7#8, 1] ≠ [0#8] ∧
    [7#8, 1].length < [5#8, 0, 7, 1].length ∧ canonical [3#8] := by decide

/-- +∞ (R100). -/
def fInf : F64 := 0x7FF0000000000000#64
/-- A quadrilateral corner at +∞. -/
def badQuad : State := { rich with q := rich.q.set 0 fInf }
theorem witness_TransformBuild :
    (adj (sq2q rich.q[0] rich.q[1] rich.q[2] rich.q[3] rich.q[4] rich.q[5] rich.q[6] rich.q[7])).allFinite = true ∧
    (sq2q rich.q[8] rich.q[9] rich.q[10] rich.q[11] rich.q[12] rich.q[13] rich.q[14] rich.q[15]).allFinite = true ∧
    (times (sq2q rich.q[8] rich.q[9] rich.q[10] rich.q[11] rich.q[12] rich.q[13] rich.q[14] rich.q[15])
      (adj (sq2q rich.q[0] rich.q[1] rich.q[2] rich.q[3] rich.q[4] rich.q[5] rich.q[6] rich.q[7]))).allFinite = true ∧
    (adj (sq2q badQuad.q[0] badQuad.q[1] badQuad.q[2] badQuad.q[3] badQuad.q[4] badQuad.q[5] badQuad.q[6] badQuad.q[7])).allFinite = false := by
  decide +kernel
/-- `rich` with no storage written: every point of PT is (0, 0). -/
def blank : State := { rich with mem := ⟨0, []⟩ }
theorem blank_pt (k : Nat) : blank.pt k = 0#64 := by
  simp [State.pt, Memory.readF64, Memory.readWord, Memory.read, blank, lookupCell, Memory.unlisted]
theorem witness_PointMapping : blank.mem.wf ∧ blank.tv = true ∧ (256#12).toNat ≤ 256 ∧
    ∀ p < (256#12).toNat, finitePoint (mapPt blank.t (blank.pt (2 * p), blank.pt (2 * p + 1))) = true := by
  refine ⟨⟨List.Pairwise.nil, by simp [blank]⟩, rfl, by decide, fun p _ => ?_⟩
  rw [blank_pt, blank_pt]
  decide +kernel
theorem witness_RoundsToNearest : finite f35 = true ∧ finite f7 = true ∧ finite 0x7FEFFFFFFFFFFFFF#64 = true := by decide +kernel
/-- R100 at the overflow threshold: the largest finite value plus 2^970 is an infinity, plus the value below 2^970 it is itself. -/
theorem test_overflow_threshold : unpack (fadd 0x7FEFFFFFFFFFFFFF#64 0x7C90000000000000#64) = .inf false ∧
    fadd 0x7FEFFFFFFFFFFFFF#64 0x7C8FFFFFFFFFFFFF#64 = 0x7FEFFFFFFFFFFFFF#64 := by decide +kernel
theorem witness_RoundsToNearest_divisor : realValue f7 ≠ 0 := by
  have h : unpack f7 = .fin false (7 * 2 ^ 50) (-50) := by decide +kernel
  simp [realValue, h]
theorem witness_BinaryCorners : isZeroF 0#64 = true ∧ isZeroF 0x8000000000000000#64 = true ∧ finite f35 = true ∧ isZeroF f35 = false ∧
    unpack nanBits = .nan ∧ unpack f7 = .fin false (7 * 2 ^ 50) (-50) ∧ unpack 1#64 = .fin false 1 (-1074) ∧ 2 ^ 53 ≤ 2 ^ 53 := by
  decide +kernel
/-- An answer that is no error, as an equation. -/
theorem ok_of {α : Type} {r : Except CmdError α} (h : r.toOption.isSome = true) : ∃ a, r = .ok a := by
  cases r with
  | ok a => exact ⟨a, rfl⟩
  | error x => cases h
theorem withPoints_mem (vs : List F64) : (withPoints vs).mem = writePoints rich.mem 0 vs := rfl
theorem withPoints_wf : (withPoints nudgeExample).mem.wf := by
  rw [withPoints_mem]; exact writePoints_wf rich.mem rich_wf 0 nudgeExample
theorem witness_SamplerCommands_nudge : 1 ≤ rich.imgW.toNat ∧ rich.imgW.toNat ≤ 2048 ∧ 1 ≤ rich.imgH.toNat ∧ rich.imgH.toNat ≤ 2048 ∧
    (withPoints nudgeExample).mem.wf ∧ (3#12).toNat ≤ 256 ∧
    ∃ pts, nudge (withPoints nudgeExample).imgW.toNat (withPoints nudgeExample).imgH.toNat 0
      ((withPoints nudgeExample).points (3#12).toNat) = .ok pts :=
  ⟨by decide +kernel, by decide +kernel, by decide +kernel, by decide +kernel, withPoints_wf, by decide,
    ok_of (by decide +kernel)⟩
/-- Every point of a list is finite. -/
theorem all_finite {pts : List Point} (h : pts.all finitePoint = true) : ∀ pt ∈ pts, finitePoint pt = true := List.all_eq_true.1 h
theorem witness_NudgeRule : ∃ out, nudge 42 42 0 [(0xBFE0000000000000#64, f7), (f35, f7)] = .ok out := ok_of (by decide +kernel)
theorem witness_NudgeRule_inside : 1 ≤ 1 ∧ 2048 ≤ 2048 ∧ ∀ pt ∈ [(f7, f350)], finitePoint pt = true ∧ insideImage 42 42 pt := by
  refine ⟨by decide, by decide, ?_⟩
  intro pt h
  rw [List.mem_singleton] at h
  subst h
  decide +kernel
/-- The points of N9 and N10 (95_test_vectors.md) in a 42 × 42 image: x is 43 in the third of four, and in the last. -/
def n9 : List Point := [(0xBFF0000000000000#64, fzero), (f7, f7), (0x4045800000000000#64, fzero), (f35, f35)]
def n10 : List Point := [(0xBFF0000000000000#64, fzero), (f7, f7), (f35, f35), (0x4045800000000000#64, fzero)]
theorem test_nudge_between_stops : (nudge 42 42 0 n9).toOption = some [(fzero, fzero), (f7, f7), (0x4045800000000000#64, fzero), (f35, f35)] := by
  decide +kernel
theorem witness_NudgeRule_scanned : scanned 42 42 n9 1 ∧ ¬ scanned 42 42 n9 2 ∧ scanned 42 42 n9 3 :=
  ⟨.inl (by decide +kernel), fun h => h.elim (fun h => absurd (h 1 (by decide)) (by decide +kernel))
    (fun h => absurd (h 3 (by decide) (by decide)) (by decide +kernel)),
    .inr (fun j h1 h2 => absurd h2 (by simp only [n9, List.length_cons, List.length_nil]; omega))⟩
/-- N10: the back scan meets point 3. -/
theorem witness_NudgeRule_fails : scanFails 42 42 n10 3 ∧ ∀ pt ∈ n10, finitePoint pt = true :=
  ⟨⟨by decide, by decide +kernel, .inr ⟨by decide +kernel,
      fun j h1 h2 => absurd h2 (by simp only [n10, List.length_cons, List.length_nil]; omega)⟩⟩, all_finite (by decide +kernel)⟩
/-- N11: the second point is not finite. -/
theorem witness_NudgeRule_nonfinite : firstNonFinite [(f7, f7), (nanBits, fzero), (f7, f7)] 1 := by
  unfold firstNonFinite; decide +kernel

/-! A sampling that succeeds: a destination quadrilateral with four equal corners, here (0, 0), maps every point to that corner (93_implementation_defined.md). -/

/-- `rich` with every destination corner of Q at (0, 0), and in T the transform this builds. -/
def cornerT : Transform := { Transform.zero with a33 := f196 }
def corner : State := { rich with q := #v[f35, f35, f175, f35, f175, f175, f35, f175, 0, 0, 0, 0, 0, 0, 0, 0], t := cornerT }
theorem corner_build : build corner.q = .ok cornerT := by decide +kernel
theorem centre_positive : ∀ x < 21, (fadd (fofNat x) fhalf).getLsbD 63 = false ∧ finite (fadd (fofNat x) fhalf) = true := by
  decide +kernel
theorem fmul_zero_left (v : F64) (hs : v.getLsbD 63 = false) (hf : finite v = true) : fmul 0#64 v = 0#64 := by
  have h0 : unpack 0#64 = .fin false 0 (-1074) := by decide
  have hne : (v.extractLsb' 52 11).toNat ≠ 2047 := by
    intro h
    have : v.extractLsb' 52 11 = 2047#11 := BitVec.eq_of_toNat_eq (by simpa using h)
    simp [finite, this] at hf
  have hv : ∃ m e, unpack v = .fin false m e := by
    simp only [unpack, hs, if_neg hne]
    split
    · exact ⟨_, _, rfl⟩
    · exact ⟨_, _, rfl⟩
  obtain ⟨m, e, h⟩ := hv
  simp [fmul, h0, h, roundRatio, signed]
theorem corner_map (x y : Nat) (hx : x < 21) (hy : y < 21) : mapPt cornerT (cellCentre x y) = (0#64, 0#64) := by
  have h1 := fmul_zero_left _ (centre_positive x hx).1 (centre_positive x hx).2
  have h2 := fmul_zero_left _ (centre_positive y hy).1 (centre_positive y hy).2
  simp only [mapPt, cellCentre, cornerT, Transform.zero, h1, h2]
  decide +kernel
theorem gridRow_ok (s : State) (t : Transform) (dim y : Nat) (pts : List Point) (bits : List Bool)
    (h1 : nudge s.imgW.toNat s.imgH.toNat y ((List.range dim).map (fun x => mapPt t (cellCentre x y))) = .ok pts)
    (h2 : sampleRow s y 0 pts = .ok bits) : ∃ r, gridRow s t dim y = .ok r := by
  simp [gridRow, h1, h2, bind, Except.bind, pure, Except.pure]
theorem ok_eq {α : Type} {r : Except CmdError α} {a : α} (h : r.toOption = some a) : r = .ok a := by
  cases r with
  | ok b => exact congrArg _ (Option.some.inj h)
  | error x => cases h
theorem corner_nudge : ∀ y < 21, (nudge 42 42 y (List.replicate 21 (0#64, 0#64))).toOption = some (List.replicate 21 (0#64, 0#64)) := by
  decide +kernel
theorem corner_pixels : ∀ y < 21, (sampleRow corner y 0 (List.replicate 21 (0#64, 0#64))).toOption.isSome = true := by decide +kernel
theorem corner_size : corner.imgW.toNat = 42 ∧ corner.imgH.toNat = 42 := by decide +kernel
theorem corner_row (y : Nat) (hy : y < 21) : ∃ r, gridRow corner cornerT 21 y = .ok r := by
  have hm : (List.range 21).map (fun x => mapPt cornerT (cellCentre x y)) = List.replicate 21 (0#64, 0#64) := by
    rw [List.map_congr_left (g := fun _ => (0#64, 0#64)) (fun x hx => corner_map x y (List.mem_range.1 hx) hy),
      List.map_const', List.length_range]
  obtain ⟨bits, hbits⟩ := ok_of (corner_pixels y hy)
  refine gridRow_ok corner cornerT 21 y (List.replicate 21 (0#64, 0#64)) bits ?_ hbits
  rw [hm, corner_size.1, corner_size.2]
  exact ok_eq (corner_nudge y hy)
theorem gridRows_ok (s : State) (t : Transform) (dim n y : Nat) (h : ∀ k, y ≤ k → k < y + n → ∃ r, gridRow s t dim k = .ok r) :
    ∃ rs, gridRows s t dim n y = .ok rs := by
  induction n generalizing y with
  | zero => exact ⟨[], rfl⟩
  | succ n ih =>
    obtain ⟨r, hr⟩ := h y (Nat.le_refl _) (by omega)
    obtain ⟨rs, hrs⟩ := ih (y + 1) (fun k h1 h2 => h k (by omega) (by omega))
    exact ⟨r :: rs, by simp [gridRows, hr, hrs, bind, Except.bind, pure, Except.pure]⟩
theorem sample_ok (s : State) (t : Transform) (dim : Nat) (rs : List (BitVec 177)) (h : gridRows s t dim dim 0 = .ok rs) :
    ∃ m, sample s t dim = .ok m := by
  simp [sample, h, bind, Except.bind, pure, Except.pure]
theorem corner_sample : ∃ m, sample corner cornerT 21 = .ok m := by
  obtain ⟨rs, h⟩ := gridRows_ok corner cornerT 21 21 0 (fun k _ hk => corner_row k (by omega))
  exact sample_ok corner cornerT 21 rs h
theorem witness_SamplerCommands : 1 ≤ corner.imgW.toNat ∧ corner.imgW.toNat ≤ 2048 ∧ 21 ≤ (21#12).toNat ∧ (21#12).toNat ≤ 177 ∧
    (177#12).toNat % 4 = 1 ∧ (21#12).toNat % 4 = 1 ∧ corner.tv = true ∧
    (∃ m, sample corner corner.t (21#12).toNat = .ok m) ∧
    ∃ g m, build corner.q = .ok g ∧ sample corner g (21#12).toNat = .ok m :=
  ⟨by decide +kernel, by decide +kernel, by decide, by decide, by decide, by decide, rfl, corner_sample,
    cornerT, corner_sample.imp fun _ h => ⟨corner_build, h⟩⟩
theorem witness_SampledMatrix : 21 ≤ 177 ∧ ∃ m, sample corner cornerT 21 = .ok m := ⟨by decide, corner_sample⟩
theorem quad_ok (s : State) (dim : BitVec 12) (g : Transform) (m : BitMatrix) (hd : checkDim (uimm12 dim) = .ok ())
    (hi : checkImage s = .ok ()) (hb : build s.q = .ok g) (hm : sample s g (uimm12 dim) = .ok m) :
    ∃ t, exec (.sQuad dim) s = .next t ∧ t.err = s.err := by
  simp [exec, execSQuad, hd, hi, hb, hm, bind, Except.bind, pure, Except.pure, finish, complete, newMatrix, writeT]
theorem corner_quad : ∃ t, exec (.sQuad 21#12) corner = .next t ∧ t.err = false := by
  obtain ⟨m, hm⟩ := corner_sample
  exact quad_ok corner 21#12 cornerT m (by decide) (by decide +kernel) corner_build hm
theorem witness_QuadIsBuildThenGrid : corner.err = false ∧ dimOK (21#12).toNat = true ∧ dimOK (177#12).toNat = true ∧ imgOK corner = true ∧
    ∃ t, exec (.sQuad 21#12) corner = .next t ∧ t.err = false :=
  ⟨rfl, by decide, by decide, by decide +kernel, corner_quad⟩
/-- Storage that differs from `corner`'s in a byte of PT alone. -/
theorem witness_SamplingReadsOnlyTheImage :
    (∀ k < corner.imgW.toNat * corner.imgH.toNat,
      ({ corner with mem := ⟨0, (0x1000, 1#8) :: corner.mem.cells⟩ } : State).pix k = corner.pix k) ∧
    ∃ t, exec (.sQuad 21#12) corner = .next t :=
  ⟨fun k _ => by
    have h : ¬ (4096 = pixAddr (k / 8)) := by unfold pixAddr; omega
    simp [State.pix, Memory.read, lookupCell, h, Memory.unlisted, corner, rich], corner_quad.imp fun _ h => h.1⟩

theorem witness_GeometryAndMatrixTraps : bare.tv = false ∧ blank.tv = true ∧ 256 < (257#12).toNat ∧ (256#12).toNat ≤ 256 ∧
    imgOK bare = false ∧ imgOK blank = true ∧ dimOK (20#12).toNat = false ∧ dimOK (181#12).toNat = false ∧ dimOK (177#12).toNat = true ∧
    (22#12).toNat % 4 ≠ 1 ∧ (20#12).toNat < 21 ∧ 177 < (181#12).toNat ∧ bare.bmDim = 0#32 ∧ rich.bmDim ≠ 0#32 ∧
    rich.bmDim.toNat ≤ (21#8).toNat := by decide +kernel
/-- T is all zeros, so the first point maps to NaN (R104). -/
theorem witness_GeometryAndMatrixTraps_map : 0 < (1#12).toNat ∧ (1#12).toNat ≤ 256 ∧
    finitePoint (mapPt Transform.zero (({ rich with t := Transform.zero } : State).pt (2 * 0), ({ rich with t := Transform.zero } : State).pt (2 * 0 + 1))) = false := by
  decide +kernel
/-- The second point of PT is not finite. -/
theorem witness_GeometryAndMatrixTraps_nudge : 1 < (2#12).toNat ∧ finitePoint ((withPoints [f7, f7, f7, fInf]).pt (2 * 0), (withPoints [f7, f7, f7, fInf]).pt (2 * 0 + 1)) = true ∧
    finitePoint ((withPoints [f7, f7, f7, fInf]).pt (2 * 1), (withPoints [f7, f7, f7, fInf]).pt (2 * 1 + 1)) = false := by
  decide +kernel
/-- S.NUDGE: the first point is out of reach (N2). -/
theorem witness_GeometryAndMatrixTraps_reach : (2#12).toNat ≤ 256 ∧ imgOK rich = true ∧
    scanFails rich.imgW.toNat rich.imgH.toNat ((withPoints [0x4045800000000000#64, f7, f7, f7]).points (2#12).toNat) 0 ∧
    ∀ pt ∈ (withPoints [0x4045800000000000#64, f7, f7, f7]).points (2#12).toNat, finitePoint pt = true :=
  ⟨by decide, by decide +kernel, ⟨by decide +kernel, by decide +kernel, .inl (by decide +kernel)⟩, all_finite (by decide +kernel)⟩
/-- Row 0 of a grid fails with each sub-cause: T is all 0; the image is 38 pixels wide and column 20 maps to x = 41; a mapping with a pole between columns 9 and 10 sends column 10 alone past the right edge, to (80, 5). -/
def pole : Transform :=
  ⟨0x4034000000000000#64, 0, 0xC067C00000000000#64, 0x4014000000000000#64, 0, 0xC049A00000000000#64, fone, 0, 0xC024800000000000#64⟩
def narrow : State := { rich with imgW := 38#12 }
theorem witness_GeometryAndMatrixTraps_row : rowFails rich Transform.zero 21 0 2 0 := by
  refine .inl ⟨rfl, ?_⟩
  unfold firstNonFinite
  decide +kernel
theorem witness_GeometryAndMatrixTraps_row_reach : rowFails narrow narrow.t 21 0 3 20 ∧ narrow.tv = true ∧ imgOK narrow = true :=
  ⟨.inr (.inl ⟨rfl, all_finite (by decide +kernel), by decide +kernel, by decide +kernel,
    .inr ⟨by decide +kernel, fun j h1 h2 => absurd h2 (by simp only [gridPoints, List.length_map, List.length_range]; omega)⟩⟩), by decide +kernel⟩
theorem pole_nudge : ∃ pts, nudge 42 42 0 (gridPoints pole 21 0) = .ok pts ∧
    (decide (10 < pts.length) && !decide (insideImage 42 42 (pointAt pts 10)) &&
      (List.range 10).all (fun j => decide (insideImage 42 42 (pointAt pts j)))) = true := by
  obtain ⟨pts, h⟩ := ok_of (r := nudge 42 42 0 (gridPoints pole 21 0)) (by decide +kernel)
  have hc : ((nudge 42 42 0 (gridPoints pole 21 0)).toOption.map (fun pts => decide (10 < pts.length) &&
      !decide (insideImage 42 42 (pointAt pts 10)) && (List.range 10).all (fun j => decide (insideImage 42 42 (pointAt pts j))))) = some true := by
    decide +kernel
  rw [h] at hc
  exact ⟨pts, h, Option.some.inj hc⟩
theorem rich_size : rich.imgW.toNat = 42 ∧ rich.imgH.toNat = 42 := by decide +kernel
theorem witness_GeometryAndMatrixTraps_row_outside : rowFails rich pole 21 0 4 10 := by
  obtain ⟨pts, h, hc⟩ := pole_nudge
  simp only [Bool.and_eq_true, Bool.not_eq_true', decide_eq_true_eq, decide_eq_false_iff_not, List.all_eq_true, List.mem_range] at hc
  unfold rowFails
  rw [rich_size.1, rich_size.2]
  exact .inr (.inr ⟨rfl, pts, h, hc.1.1, hc.1.2, hc.2⟩)
/-- The records of these three rows (R143): sub-cause and column, row 0. -/
theorem test_sGrid_traps : after (.sGrid 21#12) { rich with t := Transform.zero } record = some (0x05#8, 0x02000000#32, 0#32) ∧
    after (.sGrid 21#12) narrow record = some (0x05#8, 0x03000014#32, 0#32) ∧
    after (.sGrid 21#12) { rich with t := pole } record = some (0x05#8, 0x0400000A#32, 0#32) := by decide +kernel
theorem test_sQuad_build : after (.sQuad 21#12) badQuad record = some (0x05#8, 0x01000000#32, 0#32) := by decide +kernel
theorem witness_MatrixCommands : 21 ≤ (21#12).toNat ∧ (177#12).toNat ≤ 177 ∧ (21#12).toNat % 4 = 1 ∧ (177#12).toNat % 4 = 1 ∧
    rich.bmDim.toNat ≤ 177 ∧ (20#8).toNat < rich.bmDim.toNat ∧ (0#8).toNat < rich.bmDim.toNat := by decide +kernel
theorem witness_FieldReads : (20#8).toNat < rich.bmDim.toNat ∧ formatA.length ≤ 32 ∧ (versionTR 45).length ≤ 32 ∧
    (List.replicate 32 (0, 0)).length ≤ 32 := by decide +kernel

/-- The positions of a field where a code has a 1, first position first. -/
def placed (positions : List (Nat × Nat)) (code : Nat) : List (Nat × Nat) :=
  (positions.zipIdx.filter (fun c => code.testBit (positions.length - 1 - c.2))).map (fun c => c.1)
/-- A matrix of dimension 21 with the given words at the two format locations. -/
def withFormats (a b : Nat) : State := { rich with bm := modules (placed formatA a ++ placed (formatB 21) b) }
/-- FV = 1; a code at A; a broken word at A and a code at B; broken words at both: the last gives 0xFC4 as in R130's example. -/
theorem witness_FormatResolution : rich.bmDim ≠ 0#32 ∧ ({ rich with fmt := 0x80000008#32 } : State).fv = true ∧ rich.fv = false ∧
    formatDecode ((readField (withFormats 0x77C4 0).bm formatA).setWidth 15) = some 8#5 ∧
    formatDecode ((readField (withFormats 0xFC4 0x789D).bm formatA).setWidth 15) = none ∧
    formatDecode ((readField (withFormats 0xFC4 0x789D).bm (formatB 21)).setWidth 15) = some 0x0B#5 := by decide +kernel
theorem witness_FormatResolution_none : readField (withFormats 0xFC4 0xFC4).bm (formatB 21) = 0xFC4#32 ∧
    formatDecode ((readField (withFormats 0xFC4 0xFC4).bm formatA).setWidth 15) = none ∧
    formatDecode ((readField (withFormats 0xFC4 0xFC4).bm (formatB 21)).setWidth 15) = none := by decide +kernel
/-- A matrix of dimension 45 with the given words in the two version blocks. -/
def withVersions (tr bl : Nat) : State := { rich with bmDim := 45#32, bm := modules (placed (versionTR 45) tr ++ placed (versionBL 45) bl) }
/-- R131's examples: version 7's code in TR alone, in BL alone, version 8's in both. -/
theorem witness_VersionResolution : ({ rich with ver := 0x80000001#32 } : State).vv = true ∧ rich.vv = false ∧ rich.bmDim.toNat < 45 ∧
    ({ rich with bmDim := 41#32 } : State).bmDim.toNat < 45 ∧ 45 ≤ (withVersions 0 0).bmDim.toNat ∧ (withVersions 0 0).bmDim ≠ 0#32 ∧
    versionDecode ((readField (withVersions 0x07C94 0).bm (versionTR 45)).setWidth 18) = some 7 ∧ 17 + 4 * 7 = 45 ∧
    versionDecode ((readField (withVersions 0 0x07C94).bm (versionTR 45)).setWidth 18) = none ∧
    versionDecode ((readField (withVersions 0 0x07C94).bm (versionBL 45)).setWidth 18) = some 7 := by decide +kernel
theorem witness_VersionResolution_none : versionDecode ((readField (withVersions 0x085BC 0x085BC).bm (versionTR 45)).setWidth 18) = some 8 ∧
    versionDecode ((readField (withVersions 0x085BC 0x085BC).bm (versionBL 45)).setWidth 18) = some 8 ∧ 17 + 4 * 8 ≠ 45 := by decide +kernel
/-- Three bits flipped in a code, and the last rows of both tables. -/
theorem witness_CodesCorrectThreeErrors : popcount (0x2BEA#15 ^^^ fmtCodes.getD (31#5).toNat 0#15) ≤ 3 ∧ formatDecode 0x2BEA#15 = some 31#5 ∧
    33 < 34 ∧ popcount (0x28C6E#18 ^^^ verCodes.getD 33 0#18) ≤ 3 ∧ versionDecode 0x28C6E#18 = some 40 := by decide +kernel
/-- DF3 of 95_test_vectors.md: an unmasked code is near no stored code, and the second lookup accepts it. -/
theorem witness_CodesCorrectThreeErrors_unmasked : (∀ k : BitVec 5, 3 < popcount (0x23D6#15 ^^^ fmtCodes.getD k.toNat 0#15)) ∧
    popcount (0x23D6#15 ^^^ 0x5412#15 ^^^ fmtCodes.getD (8#5).toNat 0#15) ≤ 3 := by decide +kernel
theorem witness_UnmaskInvolution : rich.bmDim ≠ 0#32 ∧ ({ rich with bmDim := 177#32 } : State).bmDim.toNat ≤ 177 := by decide +kernel
theorem witness_WalkCoversTheMatrix : 1 ≤ 1 ∧ 40 ≤ 40 ∧ 0 < (dimension 1 - 1) / 2 ∧ 9 < (dimension 1 - 1) / 2 ∧ 20 < dimension 1 ∧ 1 < 2 ∧
    25 < ((walkPositions 21).filter (fun p => !standard.functionModule 1 p.1 p.2)).length / 8 ∧ 7 < 8 := by decide +kernel
/-- R127's first places, the turn at the top, and the pair behind the timing column. -/
theorem test_walk_order : (walkPositions 21).take 3 = [(20, 20), (19, 20), (20, 19)] ∧ (walkPositions 21).getD 41 (0, 0) = (19, 0) ∧
    (walkPositions 21).getD 42 (0, 0) = (18, 0) ∧ (walkPositions 21).getD (42 * 7) (0, 0) = (5, 0) := by decide +kernel
/-- The synthetic version 1 matrix of 95_test_vectors.md. -/
def symbol : State := { rich with bm := v1Matrix }
/-- What D.CW leaves of it, when it runs twice and when D.UNMASK comes second. -/
def once : State := match exec .dCw symbol with | .next t => t | _ => bare
theorem once_eq : exec .dCw symbol = .next once := by
  have h : (match exec .dCw symbol with | .next _ => true | _ => false) = true := by decide +kernel
  unfold once
  split at h
  · rename_i t ht; rw [ht]
  · cases h
theorem witness_TablesAgree : 1 ≤ 1 ∧ 40 ≤ 40 ∧ rich.Inv ∧ rich.err = false ∧ ∃ t, exec .dCw rich = .next t :=
  ⟨by decide, by decide, rich_inv, rfl, by
    have h : after .dCw rich (fun t => t.done) = some true := by decide +kernel
    obtain ⟨t, ht, _⟩ := exec_of_after h
    exact ⟨t, ht⟩⟩
/-- DC5 of 95_test_vectors.md: a configuration whose TOTAL_CODEWORDS(1) is 25. -/
def shortTotal : Configuration := { standard with totalCodewords := fun v => if v = 1 then 25 else totalCodewords v }
theorem shortTotal_legal : LegalConfiguration shortTotal where
  field := standard_legal.field
  totals := fun v h1 h2 => by
    have h := standard_legal.totals v h1 h2
    simp only [standard] at h
    by_cases hv : v = 1
    · simp [shortTotal, hv, Config.cwmax]
    · simpa [shortTotal, hv] using h
  pattern := standard_legal.pattern
  versions := standard_legal.versions
theorem witness_TablesAgree_configured : LegalConfiguration shortTotal ∧ symbol.bmDim.toNat = dimension 1 ∧
    readFmt shortTotal symbol (dimension 1) = .ok 0x80000008#32 ∧ readVer shortTotal symbol (dimension 1) = .ok (verWord 1) ∧
    (walk shortTotal (unmask shortTotal symbol.bm 0#3 21) 1 21).length ≠ shortTotal.totalCodewords 1 ∧
    (walk standard (unmask standard symbol.bm 0#3 21) 1 21).length = standard.totalCodewords 1 :=
  ⟨shortTotal_legal, by decide +kernel, by decide +kernel, by decide +kernel, by decide +kernel, by decide +kernel⟩
/-- The three failures of D.CW: DF5's matrix, R131's last example, DC5 with BM, FMT and VER as before. -/
theorem test_dCw_traps : after .dCw (withFormats 0xFC4 0xFC4) record = some (0x02#8, 0xFC4#32, 0xFC4#32) ∧
    after .dCw { withVersions 0x085BC 0x085BC with fmt := 0x80000008#32 } record = some (0x03#8, 0x085BC#32, 0x085BC#32) ∧
    (match execWith shortTotal .dCw symbol with
      | .next t => some (record t, t.fmt, t.ver, t.bm == symbol.bm)
      | _ => none) = some ((0x04#8, 26#32, 25#32), 0#32, 0#32, true) := by decide +kernel
/-- Another ID_VALUE is read at ID alone. -/
theorem test_configured_id : (hostReadWith { standard with idValue := 7#32 } 0#19 State.reset).rdata = 7#32 ∧
    (hostReadWith { standard with idValue := 7#32 } 2#19 State.reset).rdata = 0#32 := by decide +kernel
theorem witness_CodewordExtraction : symbol.bmDim.toNat = dimension 1 ∧ symbol.mem.wf ∧
    readFmt standard symbol (dimension 1) = .ok 0x80000008#32 ∧ readVer standard symbol (dimension 1) = .ok (verWord 1) :=
  ⟨by decide +kernel, rich_wf, by decide +kernel, by decide +kernel⟩
/-- The format of `withFormats 0xFC4 0xFC4` does not resolve (witness_FormatResolution_none); here FV = 1 and the version does not. -/
theorem witness_CodewordExtraction_traps : (withFormats 0xFC4 0xFC4).bmDim ≠ 0#32 ∧ (withFormats 0xFC4 0xFC4).fv = false ∧
    ({ withVersions 0x085BC 0x085BC with fmt := 0x80000008#32 } : State).fv = true ∧ (withVersions 0x085BC 0x085BC).vv = false ∧
    45 ≤ (withVersions 0x085BC 0x085BC).bmDim.toNat := by decide +kernel
theorem witness_UnmaskAfterCodewords : symbol.err = false ∧ symbol.mem.wf ∧ exec .dCw symbol = .next once ∧ once.err = false ∧
    (∃ u, exec (.dUnmask once.maskId) once = .next u) ∧ ∃ u, exec .dCw once = .next u ∧ u.err = false := by
  refine ⟨by decide +kernel, rich_wf, once_eq, by decide +kernel, ?_, ?_⟩
  · have h : after (.dUnmask once.maskId) once (fun t => t.done) = some true := by decide +kernel
    obtain ⟨t, ht, _⟩ := exec_of_after h
    exact ⟨t, ht⟩
  · have h : after .dCw once (fun t => !t.err) = some true := by decide +kernel
    obtain ⟨t, ht, he⟩ := exec_of_after h
    exact ⟨t, ht, by simpa using he⟩
/-- A D.CW that fails: neither format location decodes. -/
theorem witness_UnmaskAfterCodewords_failed : ∃ t, exec .dCw (withFormats 0xFC4 0xFC4) = .next t ∧ t.err = true := by
  have h : after .dCw (withFormats 0xFC4 0xFC4) (fun t => t.err) = some true := by decide +kernel
  exact exec_of_after h

end Sys2Proof.Tests
end

/-! PROOFS. 00_scope.md: the default tables agree with each other (O58). The walk reads every module of the matrix outside FUNCTION_PATTERN once; FUNCTION_PATTERN is cut into rectangles that do not overlap, so its modules are counted by their areas, and the rest, eight to a codeword, is TOTAL_CODEWORDS. -/

namespace Sys2Proof.Machine
open scoped List

/-! ## Counting in lists -/

/-- Two predicates that never hold together count separately. -/
theorem countP_or_of_disjoint {α : Type} (l : List α) (p q : α → Bool) (h : ∀ a ∈ l, ¬(p a = true ∧ q a = true)) :
    l.countP (fun a => p a || q a) = l.countP p + l.countP q := by
  induction l with
  | nil => rfl
  | cons a l ih =>
    have rest := ih fun b hb => h b (List.mem_cons_of_mem a hb)
    have here := h a List.mem_cons_self
    simp only [List.countP_cons, rest]
    cases hp : p a <;> cases hq : q a <;> simp [hp, hq] at here ⊢ <;> omega

/-- A family that overlaps nowhere counts member by member. -/
theorem countP_any_of_pairwise {α β : Type} (l : List α) (has : β → α → Bool) (bs : List β)
    (h : bs.Pairwise fun b c => ∀ a ∈ l, ¬(has b a = true ∧ has c a = true)) :
    l.countP (fun a => bs.any fun b => has b a) = (bs.map fun b => l.countP (has b)).sum := by
  induction bs with
  | nil => simp
  | cons b bs ih =>
    obtain ⟨hb, hbs⟩ := List.pairwise_cons.1 h
    simp only [List.any_cons, List.map_cons, List.sum_cons]
    rw [countP_or_of_disjoint, ih hbs]
    rintro a ha ⟨here, later⟩
    obtain ⟨c, hc, there⟩ := List.any_eq_true.1 later
    exact hb c hc a ha ⟨here, there⟩

theorem countP_product {α β : Type} (as : List α) (bs : List β) (p : α → Bool) (q : β → Bool) :
    (as ×ˢ bs).countP (fun c => p c.1 && q c.2) = as.countP p * bs.countP q := by
  induction as with
  | nil => simp
  | cons a as ih =>
    rw [List.product_cons, List.countP_append, List.countP_map, ih, List.countP_cons]
    cases ha : p a <;> simp [Function.comp_def, ha, Nat.add_mul, Nat.add_comm]

theorem filter_product {α β : Type} (as : List α) (bs : List β) (p : α → Bool) :
    as.filter p ×ˢ bs = (as ×ˢ bs).filter fun c => p c.1 := by
  induction as with
  | nil => rfl
  | cons a as ih =>
    rw [List.product_cons, List.filter_append, ← ih, List.filter_map]
    cases ha : p a <;> simp [Function.comp_def, ha]

theorem countP_inSpan_range (l w n : Nat) : (List.range n).countP (inSpan l w) = min n (l + w) - min n l := by
  induction n with
  | zero => simp
  | succ n ih =>
    rw [List.range_succ, List.countP_append, ih, List.countP_singleton]
    simp only [inSpan_iff]
    split <;> omega

/-! ## The walk (R127) -/

/-- Every module of the d × d matrix. -/
def square (d : Nat) : List (Nat × Nat) := List.range d ×ˢ List.range d

/-- Up or down, a pair of columns is read in full. -/
theorem pairPositions_perm (d : Nat) (up : Bool) (j : Nat) : pairPositions d up j ~ [j, j - 1] ×ˢ List.range d := by
  have serpentine (rows : List Nat) : (rows.flatMap fun i => [(j, i), (j - 1, i)]) ~ [j, j - 1] ×ˢ rows := by
    simpa [List.product_cons, ← List.map_eq_flatMap] using
      (List.map_append_flatMap_perm rows (fun i => (j, i)) (fun i => [(j - 1, i)])).symm
  cases up with
  | false => exact serpentine _
  | true =>
    have bottomUp : (List.range d).map (fun count => d - 1 - count) = (List.range d).reverse := by
      simp [List.range_eq_range', List.reverse_range']
    have h := serpentine (List.range d).reverse
    rw [← bottomUp, List.flatMap_map, bottomUp] at h
    exact h.trans (List.Perm.product_left _ (List.reverse_perm _))

theorem walkColumns_zero (n : Nat) : walkColumns n 0 = [] := by cases n <;> rfl

/-- The pairs of columns, from an even right column at or beyond 6: every column but 6, from the right. -/
theorem walkColumns_pairs (k n : Nat) :
    (walkColumns (k + n + 3) (6 + 2 * k)).flatMap (fun j => [j, j - 1]) =
      ((List.range (7 + 2 * k)).filter fun x => x != 6).reverse := by
  induction k with
  | zero =>
    have last : ((List.range 7).filter fun x => x != 6).reverse = [5, 4, 3, 2, 1, 0] := by decide
    simp [walkColumns, last, walkColumns_zero]
  | succ k ih =>
    have columns : walkColumns (k + 1 + n + 3) (6 + 2 * (k + 1)) = (8 + 2 * k) :: walkColumns (k + n + 3) (6 + 2 * k) := by
      rw [show k + 1 + n + 3 = (k + n + 3) + 1 by omega, walkColumns]
      simp [show 6 + 2 * (k + 1) = 8 + 2 * k by omega, show ¬ 8 + 2 * k = 6 by omega, show 8 + 2 * k - 2 = 6 + 2 * k by omega]
    have range : List.range (7 + 2 * (k + 1)) = List.range (7 + 2 * k) ++ [7 + 2 * k, 8 + 2 * k] := by
      rw [show 7 + 2 * (k + 1) = (7 + 2 * k + 1) + 1 by omega, List.range_succ, List.range_succ]
      simp; omega
    rw [columns, range, List.flatMap_cons, ih, List.filter_append, List.reverse_append]
    simp [show ¬ 7 + 2 * k = 6 by omega, show ¬ 8 + 2 * k = 6 by omega]

/-- The walk visits every module of every column but column 6, each once. -/
theorem walkPositions_perm (v : Nat) :
    walkPositions (dimension v) ~ ((List.range (dimension v)).filter fun x => x != 6) ×ˢ List.range (dimension v) := by
  have columns := walkColumns_pairs (2 * v + 5) (2 * v + 9)
  rw [show 2 * v + 5 + (2 * v + 9) + 3 = dimension v by simp only [dimension]; omega,
    show 6 + 2 * (2 * v + 5) = dimension v - 1 by simp only [dimension]; omega,
    show 7 + 2 * (2 * v + 5) = dimension v by simp only [dimension]; omega] at columns
  calc walkPositions (dimension v)
    _ ~ (walkColumns (dimension v) (dimension v - 1)).zipIdx.flatMap fun c => [c.1, c.1 - 1] ×ˢ List.range (dimension v) :=
      List.Perm.flatMap_left _ fun c _ => pairPositions_perm _ _ _
    _ = ((walkColumns (dimension v) (dimension v - 1)).flatMap fun j => [j, j - 1]) ×ˢ List.range (dimension v) := by
      conv_rhs => rw [← List.zipIdx_map_fst 0 (walkColumns (dimension v) (dimension v - 1))]
      simp only [SProd.sprod, List.product, List.flatMap_map, List.flatMap_assoc]
    _ ~ ((List.range (dimension v)).filter fun x => x != 6) ×ˢ List.range (dimension v) := by
      rw [columns]
      exact List.Perm.product_right _ (List.reverse_perm _)

theorem packBytes_length (bs : List Bool) : (packBytes bs).length = bs.length / 8 := by
  induction bs using packBytes.induct with
  | case1 b7 b6 b5 b4 b3 b2 b1 b0 rest ih =>
    simp only [packBytes, List.length_cons, ih]
    omega
  | case2 bs partialByte =>
    have short : bs.length < 8 := by
      by_contra long
      rcases bs with _ | ⟨_, _ | ⟨_, _ | ⟨_, _ | ⟨_, _ | ⟨_, _ | ⟨_, _ | ⟨_, _ | ⟨_, _⟩⟩⟩⟩⟩⟩⟩⟩
      all_goals simp at long
      exact partialByte _ _ _ _ _ _ _ _ _ rfl
    rw [packBytes, Nat.div_eq_of_lt short, List.length_nil]
    exact partialByte

theorem walk_length (c : Configuration) (bm : BitMatrix) (v d : Nat) :
    (walk c bm v d).length = (walkPositions d).countP (fun p => !c.functionModule v p.1 p.2) / 8 := by
  rw [walk, packBytes_length, List.length_map, List.countP_eq_length_filter]

/-! ## Regions of modules (R140) -/

/-- A rectangle of modules, `region(left, top, width, height)` (R140). -/
structure Region where
  left : Nat
  top : Nat
  width : Nat
  height : Nat

/-- Whether a module (x, y) lies in the region (R140). -/
def Region.has (r : Region) (p : Nat × Nat) : Bool := inRegion r.left r.top r.width r.height p.1 p.2

/-- How many modules a region holds. -/
def Region.area (r : Region) : Nat := r.width * r.height

/-- One region ends, in columns or in rows, before the other begins. -/
abbrev Region.apart (r q : Region) : Prop :=
  r.left + r.width ≤ q.left ∨ q.left + q.width ≤ r.left ∨ r.top + r.height ≤ q.top ∨ q.top + q.height ≤ r.top

/-- The region lies inside the d × d matrix. -/
abbrev Region.inside (r : Region) (d : Nat) : Prop := r.left + r.width ≤ d ∧ r.top + r.height ≤ d

theorem inRegion_iff {l t w h x y : Nat} : inRegion l t w h x y = true ↔ (l ≤ x ∧ x < l + w) ∧ t ≤ y ∧ y < t + h := by
  simp only [inRegion, Bool.and_eq_true, inSpan_iff]

theorem Region.has_iff {r : Region} {p : Nat × Nat} :
    r.has p = true ↔ (r.left ≤ p.1 ∧ p.1 < r.left + r.width) ∧ r.top ≤ p.2 ∧ p.2 < r.top + r.height := inRegion_iff

theorem Region.countP_has_square {r : Region} {d : Nat} (h : r.inside d) : (square d).countP r.has = r.area := by
  have columns : (List.range d).countP (inSpan r.left r.width) = r.width := by rw [countP_inSpan_range]; omega
  have rows : (List.range d).countP (inSpan r.top r.height) = r.height := by rw [countP_inSpan_range]; omega
  calc (square d).countP r.has
    _ = (List.range d).countP (inSpan r.left r.width) * (List.range d).countP (inSpan r.top r.height) := countP_product _ _ _ _
    _ = r.area := by rw [columns, rows, Region.area]

/-- Regions apart from each other hold as many modules as their areas say. -/
theorem countP_any_has_square {rs : List Region} {d : Nat} (inside : ∀ r ∈ rs, r.inside d) (apart : rs.Pairwise Region.apart) :
    (square d).countP (fun p => rs.any fun r => r.has p) = (rs.map Region.area).sum := by
  rw [countP_any_of_pairwise, List.map_congr_left fun r hr => Region.countP_has_square (inside r hr)]
  refine apart.imp fun {r q} h p _ => ?_
  rw [Region.has_iff, Region.has_iff]
  omega

/-! ## FUNCTION_PATTERN as regions that do not overlap (R140) -/

/-- Whether R140 skips the alignment pattern of a pair of centres, `a` of the row and `b` of the column, each with its place in the list. -/
abbrev underFinder (last : Nat) (a b : Nat × Nat) : Prop := a.2 = 0 ∧ (b.2 = 0 ∨ b.2 = last) ∨ a.2 = last ∧ b.2 = 0

/-- The alignment pattern of a pair of centres, without the timing row or column where one runs through its middle. -/
def alignmentRegions (last : Nat) (a b : Nat × Nat) : List Region :=
  if underFinder last a b then []
  else if a.2 = 0 then [⟨b.1 - 2, 4, 5, 2⟩, ⟨b.1 - 2, 7, 5, 2⟩]
  else if b.2 = 0 then [⟨4, a.1 - 2, 2, 5⟩, ⟨7, a.1 - 2, 2, 5⟩]
  else [⟨b.1 - 2, a.1 - 2, 5, 5⟩]

/-- FUNCTION_PATTERN but for the alignment patterns. -/
def frameRegions (v : Nat) : List Region :=
  let d := dimension v
  [⟨0, 0, 9, 9⟩, ⟨d - 8, 0, 8, 9⟩, ⟨0, d - 8, 9, 8⟩, ⟨6, 9, 1, d - 17⟩, ⟨9, 6, d - 17, 1⟩] ++
    if 6 < v then [⟨d - 11, 0, 3, 6⟩, ⟨0, d - 11, 6, 3⟩] else []

/-- FUNCTION_PATTERN(v) cut into regions (`functionModule_eq_any_regions`). -/
def patternRegions (v : Nat) : List Region :=
  let c := (alignCentres v).zipIdx
  frameRegions v ++ c.flatMap fun a => c.flatMap fun b => alignmentRegions (c.length - 1) a b

theorem mem_frameRegions {v : Nat} {r : Region} : r ∈ frameRegions v ↔
    r = ⟨0, 0, 9, 9⟩ ∨ r = ⟨dimension v - 8, 0, 8, 9⟩ ∨ r = ⟨0, dimension v - 8, 9, 8⟩ ∨
    r = ⟨6, 9, 1, dimension v - 17⟩ ∨ r = ⟨9, 6, dimension v - 17, 1⟩ ∨
    6 < v ∧ (r = ⟨dimension v - 11, 0, 3, 6⟩ ∨ r = ⟨0, dimension v - 11, 6, 3⟩) := by
  by_cases h : 6 < v <;> simp [frameRegions, h]

/-- Where a centre lies: the first is 6, a later one is clear of the finders in its own direction, and one that is not the last is clear of the version blocks too. -/
structure Placed (v : Nat) (c : List (Nat × Nat)) (a : Nat × Nat) : Prop where
  first : a.2 = 0 → a.1 = 6
  later : a.2 ≠ 0 → 18 ≤ a.1 ∧ a.1 + 7 ≤ dimension v
  inner : a.2 ≠ 0 → a.2 ≠ c.length - 1 → a.1 + 14 ≤ dimension v

/-- The table of R141 places its centres so. -/
theorem centres_placed (v : Nat) (hv : v < 41) : ∀ a ∈ (alignCentres v).zipIdx, Placed v (alignCentres v).zipIdx a := by
  have table : ∀ v < 41, ∀ a ∈ (alignCentres v).zipIdx, (a.2 = 0 → a.1 = 6) ∧ (a.2 ≠ 0 → 18 ≤ a.1 ∧ a.1 + 7 ≤ dimension v) ∧
    (a.2 ≠ 0 → a.2 ≠ (alignCentres v).zipIdx.length - 1 → a.1 + 14 ≤ dimension v) := by decide +kernel
  intro a ha
  obtain ⟨first, later, inner⟩ := table v hv a ha
  exact ⟨first, later, inner⟩

/-- Neighbouring alignment patterns do not touch (R141). -/
theorem centres_spaced : ∀ v < 41, (alignCentres v).zipIdx.Pairwise fun a b => a.1 + 5 ≤ b.1 := by decide +kernel

section
variable {v : Nat} {c : List (Nat × Nat)} {a b : Nat × Nat}

/-- The regions of a pattern: cut by the timing row, cut by the timing column, or whole. -/
theorem alignmentRegions_cases (ha : Placed v c a) (hb : Placed v c b) {r : Region} (h : r ∈ alignmentRegions (c.length - 1) a b) :
    (a.1 = 6 ∧ 18 ≤ b.1 ∧ b.1 + 14 ≤ dimension v ∧ (r = ⟨b.1 - 2, 4, 5, 2⟩ ∨ r = ⟨b.1 - 2, 7, 5, 2⟩)) ∨
    (b.1 = 6 ∧ 18 ≤ a.1 ∧ a.1 + 14 ≤ dimension v ∧ (r = ⟨4, a.1 - 2, 2, 5⟩ ∨ r = ⟨7, a.1 - 2, 2, 5⟩)) ∨
    (18 ≤ a.1 ∧ a.1 + 7 ≤ dimension v ∧ 18 ≤ b.1 ∧ b.1 + 7 ≤ dimension v ∧ r = ⟨b.1 - 2, a.1 - 2, 5, 5⟩) := by
  unfold alignmentRegions at h
  split_ifs at h with hidden ha0 hb0
  · cases h
  · have hb0 : b.2 ≠ 0 := by tauto
    exact .inl ⟨ha.first ha0, (hb.later hb0).1, hb.inner hb0 (by tauto), by simpa using h⟩
  · exact .inr (.inl ⟨hb.first hb0, (ha.later ha0).1, ha.inner ha0 (by tauto), by simpa using h⟩)
  · exact .inr (.inr ⟨(ha.later ha0).1, (ha.later ha0).2, (hb.later hb0).1, (hb.later hb0).2, by simpa using h⟩)

/-- A region of a pattern lies in the pattern's five columns and five rows. -/
theorem alignmentRegions_within (ha : Placed v c a) (hb : Placed v c b) {r : Region} (h : r ∈ alignmentRegions (c.length - 1) a b) :
    b.1 - 2 ≤ r.left ∧ r.left + r.width ≤ b.1 + 3 ∧ a.1 - 2 ≤ r.top ∧ r.top + r.height ≤ a.1 + 3 := by
  rcases alignmentRegions_cases ha hb h with ⟨row, hl, -, rfl | rfl⟩ | ⟨column, hl, -, rfl | rfl⟩ | ⟨hl, -, hl', -, rfl⟩ <;>
    dsimp only <;> omega

theorem frameRegions_apart_alignmentRegions (ha : Placed v c a) (hb : Placed v c b) {r q : Region}
    (hr : r ∈ frameRegions v) (hq : q ∈ alignmentRegions (c.length - 1) a b) : r.apart q := by
  rcases alignmentRegions_cases ha hb hq with ⟨-, hl, hh, rfl | rfl⟩ | ⟨-, hl, hh, rfl | rfl⟩ | ⟨hl, hh, hl', hh', rfl⟩ <;>
    rcases mem_frameRegions.1 hr with rfl | rfl | rfl | rfl | rfl | ⟨-, rfl | rfl⟩ <;>
    simp only [Region.apart] <;> omega

/-- A shown pattern is covered by its regions and, where it is cut, by the timing row or column. -/
theorem alignmentPattern_covered (ha : Placed v c a) (hb : Placed v c b) (shown : ¬ underFinder (c.length - 1) a b) {x y : Nat}
    (h : inRegion (b.1 - 2) (a.1 - 2) 5 5 x y = true) :
    (∃ r ∈ frameRegions v, r.has (x, y) = true) ∨ ∃ r ∈ alignmentRegions (c.length - 1) a b, r.has (x, y) = true := by
  rw [inRegion_iff] at h
  by_cases ha0 : a.2 = 0
  · have hb0 : b.2 ≠ 0 := by tauto
    have := ha.first ha0
    have := hb.later hb0
    have := hb.inner hb0 (by tauto)
    by_cases timing : y = 6
    · exact .inl ⟨⟨9, 6, dimension v - 17, 1⟩, by simp [mem_frameRegions], by simp only [Region.has_iff]; omega⟩
    · simp only [alignmentRegions, shown, ha0, if_true, if_false, List.mem_cons, List.not_mem_nil, or_false,
        exists_eq_or_imp, exists_eq_left, Region.has_iff]
      omega
  · by_cases hb0 : b.2 = 0
    · have := hb.first hb0
      have := ha.later ha0
      have := ha.inner ha0 (by tauto)
      by_cases timing : x = 6
      · exact .inl ⟨⟨6, 9, 1, dimension v - 17⟩, by simp [mem_frameRegions], by simp only [Region.has_iff]; omega⟩
      · simp only [alignmentRegions, shown, ha0, hb0, if_true, if_false, List.mem_cons, List.not_mem_nil, or_false,
          exists_eq_or_imp, exists_eq_left, Region.has_iff]
        omega
    · refine .inr ⟨⟨b.1 - 2, a.1 - 2, 5, 5⟩, by simp [alignmentRegions, shown, ha0, hb0], ?_⟩
      rwa [Region.has_iff]

end

theorem frameRegions_apart : ∀ v < 41, (frameRegions v).Pairwise Region.apart := by decide +kernel

theorem alignmentRegions_apart (last : Nat) (a b : Nat × Nat) : (alignmentRegions last a b).Pairwise Region.apart := by
  unfold alignmentRegions
  split_ifs <;> simp [Region.apart]

theorem patternRegions_apart (v : Nat) (hv : v < 41) : (patternRegions v).Pairwise Region.apart := by
  have placed := centres_placed v hv
  have spaced := centres_spaced v hv
  refine List.pairwise_append.2 ⟨frameRegions_apart v hv,
    List.pairwise_flatMap.2 ⟨fun a ha => List.pairwise_flatMap.2 ⟨fun b _ => alignmentRegions_apart _ a b, ?_⟩, ?_⟩, ?_⟩
  · refine spaced.imp_of_mem fun {b b'} hb hb' columns r hr q hq => ?_
    have := alignmentRegions_within (placed a ha) (placed b hb) hr
    have := alignmentRegions_within (placed a ha) (placed b' hb') hq
    unfold Region.apart
    omega
  · refine spaced.imp_of_mem fun {a a'} ha ha' rows r hr q hq => ?_
    obtain ⟨b, hb, hr⟩ := List.mem_flatMap.1 hr
    obtain ⟨b', hb', hq⟩ := List.mem_flatMap.1 hq
    have := alignmentRegions_within (placed a ha) (placed b hb) hr
    have := alignmentRegions_within (placed a' ha') (placed b' hb') hq
    unfold Region.apart
    omega
  · intro r hr q hq
    obtain ⟨a, ha, hq⟩ := List.mem_flatMap.1 hq
    obtain ⟨b, hb, hq⟩ := List.mem_flatMap.1 hq
    exact frameRegions_apart_alignmentRegions (placed a ha) (placed b hb) hr hq

theorem patternRegions_inside : ∀ v < 41, ∀ r ∈ patternRegions v, r.inside (dimension v) := by decide +kernel

/-- The last columns of the table of R141: the modules that the regions leave, eight to a codeword. -/
theorem patternRegions_area : ∀ v < 41, 1 ≤ v →
    (dimension v * dimension v - ((patternRegions v).map Region.area).sum) / 8 = totalCodewords v := by decide +kernel

theorem inAlignment_iff (v x y : Nat) : inAlignment v x y = true ↔
    ∃ a ∈ (alignCentres v).zipIdx, ∃ b ∈ (alignCentres v).zipIdx, ¬ underFinder ((alignCentres v).zipIdx.length - 1) a b ∧
      inRegion (b.1 - 2) (a.1 - 2) 5 5 x y = true := by
  have shown_iff (last : Nat) (a b : Nat × Nat) :
      (!((a.2 == 0 && (b.2 == 0 || b.2 == last)) || (a.2 == last && b.2 == 0))) = true ↔ ¬ underFinder last a b := by
    simp only [Bool.not_eq_true', ← Bool.not_eq_true, Bool.or_eq_true, Bool.and_eq_true, beq_iff_eq]
  simp only [inAlignment, List.any_eq_true, inRegion, Bool.and_eq_true, shown_iff]
  constructor
  · rintro ⟨a, ha, hy, b, hb, hx, shown⟩
    exact ⟨a, ha, b, hb, shown, hx, hy⟩
  · rintro ⟨a, ha, b, hb, shown, hx, hy⟩
    exact ⟨a, ha, hy, b, hb, hx, shown⟩

theorem functionModule_iff (v x y : Nat) : functionModule v x y = true ↔
    (∃ r ∈ frameRegions v, r.has (x, y) = true) ∨ inAlignment v x y = true := by
  simp only [functionModule, Bool.or_eq_true, Bool.and_eq_true, decide_eq_true_eq, mem_frameRegions, or_and_right, exists_or,
    and_assoc, exists_and_left, exists_eq_left, Region.has]
  tauto

theorem functionModule_eq_any_regions (v x y : Nat) (hv : v < 41) :
    functionModule v x y = (patternRegions v).any fun r => r.has (x, y) := by
  have placed := centres_placed v hv
  rw [Bool.eq_iff_iff, functionModule_iff, inAlignment_iff]
  simp only [List.any_eq_true, patternRegions, List.mem_append, List.mem_flatMap]
  constructor
  · rintro (⟨r, hr, h⟩ | ⟨a, ha, b, hb, shown, h⟩)
    · exact ⟨r, .inl hr, h⟩
    · rcases alignmentPattern_covered (placed a ha) (placed b hb) shown h with ⟨r, hr, h⟩ | ⟨r, hr, h⟩
      · exact ⟨r, .inl hr, h⟩
      · exact ⟨r, .inr ⟨a, ha, b, hb, hr⟩, h⟩
  · rintro ⟨r, hr | ⟨a, ha, b, hb, hr⟩, h⟩
    · exact .inl ⟨r, hr, h⟩
    · refine .inr ⟨a, ha, b, hb, fun hidden => ?_, ?_⟩
      · rw [alignmentRegions, if_pos hidden] at hr
        cases hr
      · have within := alignmentRegions_within (placed a ha) (placed b hb) hr
        rw [Region.has_iff] at h
        rw [inRegion_iff]
        omega

theorem countP_functionModule_square (v : Nat) (hv : v < 41) :
    (square (dimension v)).countP (fun p => functionModule v p.1 p.2) = ((patternRegions v).map Region.area).sum := by
  rw [← countP_any_has_square (patternRegions_inside v hv) (patternRegions_apart v hv)]
  exact List.countP_congr fun p _ => by rw [functionModule_eq_any_regions v p.1 p.2 hv]

/-! ## The codewords of the walk (R142) -/

/-- Column 6 is function modules from top to bottom. -/
theorem functionModule_six (v y : Nat) (hy : y < dimension v) : functionModule v 6 y = true := by
  have hd : dimension v = 17 + 4 * v := rfl
  simp only [functionModule, Bool.or_eq_true, inRegion_iff]
  omega

/-- The walk loses no data module by skipping column 6. -/
theorem countP_walkPositions (v : Nat) :
    (walkPositions (dimension v)).countP (fun p => !functionModule v p.1 p.2) =
      (square (dimension v)).countP (fun p => !functionModule v p.1 p.2) := by
  rw [(walkPositions_perm v).countP_eq, filter_product, List.countP_filter]
  refine List.countP_congr fun p hp => ?_
  obtain ⟨-, hy⟩ := List.mem_product.1 hp
  have timing := functionModule_six v p.2 (List.mem_range.1 hy)
  by_cases h6 : p.1 = 6
  · simp [h6, timing]
  · simp [h6]

theorem countP_dataModules_square (v : Nat) (hv : v < 41) :
    (square (dimension v)).countP (fun p => !functionModule v p.1 p.2) =
      dimension v * dimension v - ((patternRegions v).map Region.area).sum := by
  have size : (square (dimension v)).length = dimension v * dimension v := by
    rw [square, List.length_product, List.length_range]
  have parts := List.length_eq_countP_add_countP (fun p => functionModule v p.1 p.2) (l := square (dimension v))
  rw [countP_functionModule_square v hv, size] at parts
  simp only [Bool.not_eq_true, Bool.decide_eq_false] at parts
  omega

theorem walk_standard_length (v : Nat) (bm : BitMatrix) (h1 : 1 ≤ v) (hv : v ≤ 40) :
    (walk standard bm v (dimension v)).length = totalCodewords v := by
  have data : (walkPositions (dimension v)).countP (fun p => !standard.functionModule v p.1 p.2) =
      dimension v * dimension v - ((patternRegions v).map Region.area).sum :=
    (countP_walkPositions v).trans (countP_dataModules_square v (by omega))
  rw [walk_length, data, patternRegions_area v (by omega) h1]

/-! ## What the reads of D.CW can answer -/

theorem verWord_version (s : State) (v : Nat) (hv : v ≤ 40) : ({ s with ver := verWord v } : State).version = v := by
  have field : ∀ v < 41, ((verWord v).extractLsb' 0 6).toNat = v := by decide
  exact field v (by omega)

theorem exists_version_of_dimOK {d : Nat} (h : dimOK d = true) : ∃ v, 1 ≤ v ∧ v ≤ 40 ∧ d = dimension v := by
  simp only [dimOK, Bool.and_eq_true, decide_eq_true_eq, Config.dimMin, Config.dimMax] at h
  exact ⟨(d - 17) / 4, by omega, by omega, by simp only [dimension]; omega⟩

theorem dimension_injective {u v : Nat} (h : dimension u = dimension v) : u = v := by
  simp only [dimension] at h
  omega

theorem provisionalVersion_dimension (v : Nat) : provisionalVersion (dimension v) = v := by
  simp only [provisionalVersion, dimension]
  omega

theorem needMatrix_error {s : State} {e : CmdError} (h : needMatrix s = .error e) : e.kind = .uninitOperand := by
  rcases needMatrix_cases s with ⟨-, hm⟩ | ⟨-, hm⟩
  · cases hm.symm.trans h
  · cases hm.symm.trans h
    rfl

theorem needMatrix_of_dimension {s : State} {v : Nat} (hd : s.bmDim.toNat = dimension v) : needMatrix s = .ok (dimension v) := by
  rcases needMatrix_cases s with ⟨-, hm⟩ | ⟨h0, -⟩
  · rw [hm, hd]
  · simp only [h0, dimension, BitVec.toNat_ofNat] at hd
    omega

theorem readFmt_error {c : Configuration} {s : State} {d : Nat} {e : CmdError} (h : readFmt c s d = .error e) :
    e.kind = .formatDecode := by
  simp only [readFmt] at h
  split at h
  · cases h
  · split at h
    · cases h
    · split at h
      · cases h
      · cases h
        rfl

theorem readVer_error {c : Configuration} {s : State} {d : Nat} {e : CmdError} (h : readVer c s d = .error e) :
    e.kind = .versionDecode := by
  simp only [readVer] at h
  split_ifs at h
  split at h
  · cases h
  · split at h
    · cases h
    · cases h
      rfl

theorem blockVersion_dimension {c : Configuration} {d : Nat} {bits : Word} {v : Nat} (h : blockVersion c d bits = some v) :
    dimension v = d := by
  unfold blockVersion at h
  split at h
  · split_ifs at h with hd
    cases h
    exact hd
  · cases h

/-- In a state of the invariant every source of `readVer` names the version of the present dimension (R125). -/
theorem readVer_ok {c : Configuration} {s : State} {v : Nat} {w : Word} (inv : s.Inv) (hd : s.bmDim.toNat = dimension v)
    (h : readVer c s (dimension v) = .ok w) : w = verWord v := by
  simp only [readVer] at h
  split_ifs at h with memo
  · rcases inv.version with h0 | ⟨u, -, -, hu, hdu⟩
    · simp [State.vv, h0] at memo
    · cases h
      rw [hu, dimension_injective (hdu.symm.trans hd)]
  · cases h
    rw [provisionalVersion_dimension]
  · split at h
    · rename_i u hu
      cases h
      rw [dimension_injective (blockVersion_dimension hu)]
    · split at h
      · rename_i u hu
        cases h
        rw [dimension_injective (blockVersion_dimension hu)]
      · cases h

/-! ## D.CW (R133) -/

theorem ErrKind.code_eq_codewordCount (k : ErrKind) : k.code = 0x04#8 ↔ k = .codewordCount := by cases k <;> decide

/-- D.CW whose format and version resolve comes down to the count check. -/
theorem runDCw_resolved (c : Configuration) (s : State) (f : Word) (v : Nat) (hv : v ≤ 40) (hd : s.bmDim.toNat = dimension v)
    (hf : readFmt c s (dimension v) = .ok f) (hw : readVer c s (dimension v) = .ok (verWord v)) :
    let bm := unmask c s.bm (f.extractLsb' 0 3) (dimension v)
    let out := walk c bm v (dimension v)
    runDCw c s = finish s (do
      failIf (out.length != c.totalCodewords v) (err .codewordCount out.length (c.totalCodewords v))
      return { s with
        fmt := f, ver := verWord v, bm := bm, mem := s.mem.writeBytes (cwAddr 0) out, cwCount := BitVec.ofNat 32 out.length }) := by
  have version := verWord_version { s with fmt := f } v hv
  dsimp only at version
  simp only [runDCw, needMatrix_of_dimension hd, hf, hw, bind, Except.bind, version]
  rfl

/-- Under the default tables no D.CW raises CodewordCountError (R142). -/
theorem exec_dCw_errCode_ne (s t : State) (inv : s.Inv) (noError : s.err = false) (h : exec .dCw s = .next t) :
    t.errCode ≠ 0x04#8 := by
  rcases finish_next s _ t h with ⟨u, hu, rfl⟩ | ⟨x, hx, rfl⟩
  · simp only [bind_ok_iff] at hu
    obtain ⟨_, -, _, -, _, -, _, -, hu⟩ := hu
    cases hu
    simp [complete, (inv.noRecord noError).1]
  · suffices other : x.kind ≠ .codewordCount from fun hc => other ((ErrKind.code_eq_codewordCount _).1 hc)
    simp only [bind_error_iff] at hx
    obtain hm | ⟨d, hm, hf | ⟨f, hf, hw | ⟨w, hw, hc | ⟨_, _, hn⟩⟩⟩⟩ := hx
    · simp [needMatrix_error hm]
    · simp [readFmt_error hf]
    · simp [readVer_error hw]
    · rcases needMatrix_cases s with ⟨matrix, hd⟩ | ⟨-, hd⟩ <;> cases hm.symm.trans hd
      obtain ⟨v, h1, hv, hd⟩ := exists_version_of_dimOK (inv.dim.resolve_left matrix)
      rw [hd] at hw
      cases readVer_ok inv hd hw
      have version := verWord_version { s with fmt := f } v hv
      dsimp only at version
      have differ := (failIf_error _ _ _ hc).1
      rw [version, hd] at differ
      exact absurd (walk_standard_length v _ h1 hv) (bne_iff_ne.1 differ)
    · cases hn

/-- Settles O58: the default tables agree by the areas of the function pattern's regions, and D.CW comes down to the count check. -/
theorem tablesAgree : Obligations.TablesAgree := by
  refine ⟨walk_standard_length, exec_dCw_errCode_ne, ?_⟩
  intro c s f v _ _ hv hd hf hw bm out
  have run : execWith c .dCw s = _ := runDCw_resolved c s f v hv hd hf hw
  constructor
  · intro differ
    rw [run, bne_iff_ne.2 differ]
    rfl
  · intro same
    rw [run, ← same, bne_self_eq_false]
    rfl

end Sys2Proof.Machine

/-! PROOFS. 10_state.md, the registers as the host reaches them: CTRL and the return from an error (O10), STATUS and VALID (O13), the scalar registers (O14). -/

namespace Sys2Proof.Machine

/-! ## Host accesses by what the address map names -/

/-- Out of reset and outside BUSY a host read gives what the map names (R40). -/
theorem hostRead_rdata_of_idle {s : State} (h : s.idle) (a : BitVec 19) :
    (hostRead a s).rdata = readTarget s (target (byteAddr a)) := by
  obtain ⟨out, free⟩ := h
  simp [hostRead, out, free]

/-- Out of reset and outside BUSY a host write is the effect on what the map names (R40). -/
theorem hostWrite_of_idle {s : State} (h : s.idle) (a : BitVec 19) (v : Word) :
    hostWrite a v s = writeTarget v s (target (byteAddr a)) := by
  obtain ⟨out, free⟩ := h
  simp [hostWrite, out, free]

/-- CTRL and STATUS read their current value with BUSY 0 or 1 (R41). -/
theorem hostRead_rdata_of_control {s : State} (out : s.rst = false) {a : BitVec 19}
    (ha : target (byteAddr a) = .ctrl ∨ target (byteAddr a) = .status) :
    (hostRead a s).rdata = readTarget s (target (byteAddr a)) := by
  rcases ha with ha | ha <;> simp [hostRead, out, ha]

/-- CTRL is written with BUSY 0 or 1 (R41). -/
theorem hostWrite_ctrl {s : State} (out : s.rst = false) (v : Word) : hostWrite 1#19 v s = writeCtrl v s := by
  have map : target (byteAddr 1#19) = .ctrl := by decide
  simp [hostWrite, out, map, writeTarget]

/-! ## CTRL (R31, R147) -/

/-- What a CTRL write without SOFT_RESET leaves: the enables of `v`, then its CLR_ERR and CLR_DONE (R31). -/
def ctrlWritten (v : Word) (s : State) : State :=
  { s with
    doneIe := v.getLsbD 0
    errIe := v.getLsbD 1
    err := s.err && !v.getLsbD 8
    errCode := if v.getLsbD 8 then 0#8 else s.errCode
    errCmd := if v.getLsbD 8 then 0#32 else s.errCmd
    errInfo0 := if v.getLsbD 8 then 0#32 else s.errInfo0
    errInfo1 := if v.getLsbD 8 then 0#32 else s.errInfo1
    drop := s.drop && !v.getLsbD 8
    done := s.done && !v.getLsbD 9 }

theorem writeCtrl_reset {v : Word} (h : v.getLsbD 31 = true) (s : State) : writeCtrl v s = resetBlock s := by
  rw [writeCtrl, if_pos h]

theorem writeCtrl_eq_ctrlWritten {v : Word} (h : v.getLsbD 31 = false) (s : State) : writeCtrl v s = ctrlWritten v s := by
  rcases writeCtrl_cases v s with ⟨soft, -⟩ | ⟨-, u, ⟨rfl, keepErr⟩ | ⟨rfl, clearErr⟩, ⟨hw, keepDone⟩ | ⟨hw, clearDone⟩⟩
  · rw [h] at soft
    cases soft
  · simp [hw, ctrlWritten, -BitVec.getLsbD_eq_getElem, keepErr, keepDone]
  · simp [hw, ctrlWritten, -BitVec.getLsbD_eq_getElem, keepErr, clearDone]
  · simp [hw, ctrlWritten, -BitVec.getLsbD_eq_getElem, clearError, clearErr, keepDone]
  · simp [hw, ctrlWritten, -BitVec.getLsbD_eq_getElem, clearError, clearErr, clearDone]

/-- A reset of the block gives every value that R37 states. -/
theorem resetBlock_atReset (s : State) : (resetBlock s).AtReset where
  elements := rfl
  polynomials := rfl
  transform := rfl
  matrix := rfl
  memos := ⟨rfl, rfl⟩
  codewords := rfl
  results := ⟨rfl, rfl⟩
  image := ⟨rfl, rfl⟩
  control := ⟨rfl, rfl⟩
  status := ⟨rfl, rfl, rfl, rfl, rfl⟩
  record := ⟨rfl, rfl, rfl⟩

theorem ctrl_getLsbD (s : State) (k : Nat) :
    s.ctrl.getLsbD k = (decide (k = 0) && s.doneIe || decide (k = 1) && s.errIe) := by
  simp only [State.ctrl, BitVec.getLsbD_append, BitVec.getLsbD_ofBool]
  match k with
  | 0 | 1 | k + 2 => simp

/-- A command word offered out of reset, outside BUSY and with no latched error is accepted (R54). -/
theorem hostWrite_cmd {s : State} (h : s.idle) (noError : s.err = false) (w : Word) :
    hostWrite 6#19 w s = { s with cmdLatch := w, busy := true, done := false } := by
  have map : target (byteAddr 6#19) = .cmd := by decide
  simp [hostWrite_of_idle h, map, writeTarget, offerCommand, noError]

/-- Settles O10: a CTRL write is `ctrlWritten`, which with CLR_ERR undoes a failed command's record. -/
theorem controlWriteAndErrorClear : Obligations.ControlWriteAndErrorClear := by
  have written : ∀ (s : State) (v : Word), s.rst = false → v.getLsbD 31 = false → hostWrite 1#19 v s = ctrlWritten v s :=
    fun s v out keep => (hostWrite_ctrl out v).trans (writeCtrl_eq_ctrlWritten keep s)
  refine ⟨⟨written, ?softReset, ?ctrlRead, rfl, rfl⟩, ?errorReturn, ?nextCommand⟩
  case softReset =>
    intro s v v' out hv hv'
    rw [hostWrite_ctrl out, hostWrite_ctrl out, writeCtrl_reset hv, writeCtrl_reset hv']
    exact ⟨rfl, resetBlock_atReset s⟩
  case ctrlRead =>
    intro s k out
    rw [hostRead_rdata_of_control out (.inl (by decide))]
    exact ctrl_getLsbD s k
  case errorReturn =>
    intro s code info0 info1 v out clear keep
    rw [written (s.failed code info0 info1) v out keep]
    simp [ctrlWritten, State.failed, -BitVec.getLsbD_eq_getElem, clear]
  case nextCommand =>
    rintro s v w ⟨out, free⟩ clear keep
    rw [written s v out keep]
    exact hostWrite_cmd (s := ctrlWritten v s) ⟨out, free⟩ (by simp [ctrlWritten, clear]) w

/-! ## STATUS and VALID (R32, R35) -/

theorem status_getLsbD (s : State) (k : Nat) :
    s.status.getLsbD k =
      (if k = 0 then s.busy else if k = 1 then s.done else if k = 2 then s.err else if k = 3 then s.drop
       else if k = 4 then s.irq else if 8 ≤ k ∧ k < 16 then s.errCode.getLsbD (k - 8) else false) := by
  simp only [State.status, BitVec.getLsbD_append, BitVec.getLsbD_ofBool]
  match k with
  | 0 | 1 | 2 | 3 | 4 | 5 | 6 | 7 => simp
  | k + 8 =>
    by_cases code : k < 8
    · simp [code, show k + 8 < 16 by omega]
    · simp [code, show ¬ k + 8 < 16 by omega]

theorem valid_getLsbD (s : State) (k : Nat) :
    s.valid.getLsbD k =
      (if k < 16 then s.ev.getLsbD k else if k < 24 then s.pv.getLsbD (k - 16) else if k = 24 then s.tv
       else if k = 25 then decide (s.bmDim ≠ 0#32) else false) := by
  have matrix : (s.bmDim != 0#32) = decide (s.bmDim ≠ 0#32) := by simp [bne, beq_eq_decide]
  simp only [State.valid, matrix, BitVec.getLsbD_append, BitVec.getLsbD_ofBool, Config.ne, Config.np]
  by_cases elements : k < 16
  · simp [elements]
  by_cases polys : k < 24
  · simp [elements, polys, show k - 16 < 8 by omega]
  obtain ⟨j, rfl⟩ : ∃ j, k = j + 24 := ⟨k - 24, by omega⟩
  match j with
  | 0 | 1 | j + 2 => simp

/-- Settles O13: both reads give the register's word, and each word is taken apart bit by bit. -/
theorem statusAndValid : Obligations.StatusAndValid := by
  refine ⟨fun s k out => ⟨rfl, ?_⟩, fun s k idle => ?_, by decide⟩
  · rw [hostRead_rdata_of_control out (.inr (by decide))]
    exact status_getLsbD s k
  · rw [hostRead_rdata_of_idle idle]
    exact valid_getLsbD s k

/-! ## The scalar registers (R18, R19, R24, R26–R28, R30, R33) -/

/-- Settles O14: each address is the register the map gives it. -/
theorem scalarRegisters : Obligations.ScalarRegisters := by
  intro s v idle
  have low12 : v.setWidth 12 = v.extractLsb' 0 12 := BitVec.setWidth_eq_extractLsb' (by decide)
  simp only [hostRead_rdata_of_idle idle, hostWrite_of_idle idle, ← low12]
  exact ⟨rfl, rfl, rfl, rfl, rfl, rfl, rfl, rfl, rfl, rfl, rfl, rfl, rfl, rfl, rfl⟩

end Sys2Proof.Machine

/-! PROOFS. 42_polynomial.md: what the polynomial operations make of canonical polynomials (R17, R81), and 41_field.md: a product of nonzero elements is not zero, which the quotient of R99 needs. -/

namespace Sys2Proof.Machine

/-! ## Nonzero products under the default FIELD_POLY (R70) -/

/-- Twice a field element: R70's shift and reduction on 8 bits. -/
def fieldDouble (c : Byte) : Byte := c <<< 1 ^^^ (if c.getLsbD 7 then 0x1D#8 else 0#8)

/-- One round of R70's loop on 8 bits: the accumulator doubled, `a` added where bit k of `b` is set. -/
def hornerRound (a b c : Byte) (k : Nat) : Byte := fieldDouble c ^^^ (if b.getLsbD k then a else 0#8)

theorem fieldDouble_xor (c d : Byte) : fieldDouble (c ^^^ d) = fieldDouble c ^^^ fieldDouble d := by
  have reduction : ∀ x y : Bool, (if x ^^ y then 0x1D#8 else 0#8) = (if x then 0x1D#8 else 0#8) ^^^ (if y then 0x1D#8 else 0#8) := by
    decide
  simp only [fieldDouble, BitVec.shiftLeft_xor_distrib, BitVec.getLsbD_xor, reduction]
  ac_rfl

theorem fieldDouble_ne_zero : ∀ c : Byte, c ≠ 0#8 → fieldDouble c ≠ 0#8 := by decide

theorem gfRound_setWidth (a b c : Byte) (k : Nat) :
    gfRound fieldPoly a b (c.setWidth 9) k = (hornerRound a b c k).setWidth 9 := by
  have double : ∀ c : Byte, (if (c.setWidth 9 <<< 1).getLsbD 8 then c.setWidth 9 <<< 1 ^^^ fieldPoly else c.setWidth 9 <<< 1) =
      (fieldDouble c).setWidth 9 := by decide
  simp only [gfRound, hornerRound, double, BitVec.setWidth_xor]
  cases b.getLsbD k <;> simp

/-- The product as a loop on 8 bits. -/
theorem gfMul_eq_foldl (a b : Byte) : gfMul fieldPoly a b = [7, 6, 5, 4, 3, 2, 1, 0].foldl (hornerRound a b) 0#8 := by
  have widened := List.foldl_hom (BitVec.setWidth 9) (l := [7, 6, 5, 4, 3, 2, 1, 0]) (init := 0#8) (gfRound_setWidth a b)
  rw [gfMul, show 0#9 = (0#8).setWidth 9 from rfl, widened]
  exact BitVec.setWidth_setWidth_of_le _ (by decide)

theorem gfMul_fieldDouble (a b : Byte) : gfMul fieldPoly (fieldDouble a) b = fieldDouble (gfMul fieldPoly a b) := by
  have round : ∀ c k, hornerRound (fieldDouble a) b (fieldDouble c) k = fieldDouble (hornerRound a b c k) := by
    intro c k
    simp only [hornerRound, fieldDouble_xor, apply_ite fieldDouble]
    rfl
  rw [gfMul_eq_foldl, gfMul_eq_foldl]
  exact List.foldl_hom fieldDouble (init := 0#8) round

theorem gfMul_one_left : ∀ b : Byte, gfMul fieldPoly 1#8 b = b := by decide +kernel

/-- The elements of a list as the bits of a number. -/
def elementBits (l : List Byte) : Nat := l.foldr (fun c m => m ||| 2 ^ c.toNat) 0

theorem testBit_elementBits (l : List Byte) (a : Byte) : (elementBits l).testBit a.toNat = decide (a ∈ l) := by
  induction l with
  | nil => simp [elementBits]
  | cons c l ih =>
    have bit : (2 ^ c.toNat).testBit a.toNat = decide (a = c) := by
      rw [Nat.testBit_two_pow, decide_eq_decide, eq_comm, BitVec.toNat_inj]
    have step : elementBits (c :: l) = elementBits l ||| 2 ^ c.toNat := rfl
    rw [step, Nat.testBit_or, ih, bit, Bool.or_comm]
    simp

/-- 2 generates the field's nonzero elements (R78). -/
theorem mem_iterate_fieldDouble {a : Byte} (ha : a ≠ 0#8) : a ∈ List.iterate fieldDouble 1#8 255 := by
  have all : elementBits (0#8 :: List.iterate fieldDouble 1#8 255) = 2 ^ 256 - 1 := by decide +kernel
  have bit := testBit_elementBits (0#8 :: List.iterate fieldDouble 1#8 255) a
  rw [all, Nat.testBit_two_pow_sub_one, decide_eq_decide, List.mem_cons] at bit
  exact (bit.1 a.isLt).resolve_left ha

theorem gfMul_ne_zero {a b : Byte} (ha : a ≠ 0#8) (hb : b ≠ 0#8) : gfMul fieldPoly a b ≠ 0#8 := by
  obtain ⟨n, -, rfl⟩ := List.mem_iterate.1 (mem_iterate_fieldDouble ha)
  clear ha
  induction n with
  | zero => simpa [gfMul_one_left] using hb
  | succ n ih =>
    rw [Function.iterate_succ_apply', gfMul_fieldDouble]
    exact fieldDouble_ne_zero _ ih

theorem gfInv_ne_zero {a : Byte} (ha : a ≠ 0#8) : gfInv fieldPoly a ≠ 0#8 := by
  have square : ∀ {c : Byte}, c ≠ 0#8 → gfMul fieldPoly c c ≠ 0#8 := fun h => gfMul_ne_zero h h
  have a2 := square ha
  have a4 := square a2
  have a8 := square a4
  have a16 := square a8
  have a32 := square a16
  have a64 := square a32
  exact gfMul_ne_zero a2 (gfMul_ne_zero a4 (gfMul_ne_zero a8 (gfMul_ne_zero a16 (gfMul_ne_zero a32 (gfMul_ne_zero a64 (square a64))))))

/-! ## Canonical polynomials (R81) -/

theorem polyOK_iff {p : Poly} : polyOK p ↔ canonical p ∧ p.length ≤ Config.pmax :=
  ⟨fun ⟨one, max, top⟩ => ⟨⟨one, top⟩, max⟩, fun ⟨⟨one, top⟩, max⟩ => ⟨one, max, top⟩⟩

theorem polyOK_singleton (c : Byte) : polyOK [c] := ⟨le_rfl, Nat.le_of_ble_eq_true rfl, .inl rfl⟩

theorem polyOK_pzero : polyOK pzero := polyOK_singleton 0#8

/-- A monomial with a nonzero coefficient. -/
theorem polyOK_monomial {c : Byte} (hc : c ≠ 0#8) {e : Nat} (he : e + 1 ≤ Config.pmax) :
    polyOK (c :: List.replicate e 0#8) := by
  refine ⟨by simp, by simpa using he, .inr ?_⟩
  simpa [lead] using hc

theorem canonical_canon (l : List Byte) : canonical (canon l) := by
  induction l using canon.induct with
  | case1 => exact ⟨le_rfl, .inl rfl⟩
  | case2 c => exact ⟨le_rfl, .inl rfl⟩
  | case3 c cs ih => rwa [canon, if_pos rfl]
  | case4 c d cs hc =>
    rw [canon, if_neg hc]
    exact ⟨by simp, .inr (by simpa [lead] using hc)⟩

theorem length_canon_le (l : List Byte) : (canon l).length ≤ max 1 l.length := by
  induction l using canon.induct with
  | case1 => simp [canon, pzero]
  | case2 c => simp [canon]
  | case3 c cs ih =>
    rw [canon, if_pos rfl]
    simp only [List.length_cons] at ih ⊢
    omega
  | case4 c d cs hc => simp [canon, hc]

theorem polyOK_canon {l : List Byte} (h : l.length ≤ Config.pmax) : polyOK (canon l) :=
  polyOK_iff.2 ⟨canonical_canon l, (length_canon_le l).trans (max_le (by decide) h)⟩

theorem lead_ne_zero {p : Poly} (hp : canonical p) (nonzero : isZeroP p = false) : lead p ≠ 0#8 := by
  obtain ⟨-, short | top⟩ := hp
  · obtain ⟨c, rfl⟩ := List.length_eq_one_iff.1 short
    simpa [isZeroP, pzero, lead] using nonzero
  · exact top

/-! ## Sum, product, shift (R82–R84) -/

theorem length_addAligned {s l : Poly} (h : s.length ≤ l.length) : (addAligned s l).length = l.length := by
  simp only [addAligned, List.length_append, List.length_take, List.length_zipWith, List.length_drop]
  omega

theorem polyOK_padd {a b : Poly} (ha : polyOK a) (hb : polyOK b) : polyOK (padd a b) := by
  unfold padd
  split_ifs with za zb short
  · exact hb
  · exact ha
  · exact polyOK_canon ((length_addAligned short).trans_le hb.2.1)
  · exact polyOK_canon ((length_addAligned (by omega)).trans_le ha.2.1)

theorem length_convolve (f : BitVec 9) (a : List Byte) {b : List Byte} (hb : 1 ≤ b.length) :
    (convolve f a b).length = a.length + b.length - 1 := by
  induction a with
  | nil => simp [convolve]
  | cons x xs ih =>
    simp only [convolve, List.length_zipWith, List.length_append, List.length_map, List.length_replicate, List.length_cons, ih]
    omega

/-- A product that passes the capacity check of R96. -/
theorem polyOK_pmul (f : BitVec 9) {a b : Poly} (hb : 1 ≤ b.length)
    (fits : isZeroP a = false → isZeroP b = false → a.length + b.length - 1 ≤ Config.pmax) : polyOK (pmul f a b) := by
  unfold pmul
  split_ifs with zero
  · exact polyOK_pzero
  · simp only [Bool.or_eq_true, not_or, Bool.not_eq_true] at zero
    exact polyOK_canon ((length_convolve f a hb).trans_le (fits zero.1 zero.2))

theorem polyOK_scale (f : BitVec 9) {a : Poly} (ha : polyOK a) (k : Byte) : polyOK (canon (scale f a k)) :=
  polyOK_canon (by simpa [scale] using ha.2.1)

theorem canonical_pmulm (f : BitVec 9) (a : Poly) (k : Byte) (e : Nat) : canonical (pmulm f a k e) := by
  unfold pmulm
  split_ifs
  · exact polyOK_pzero.imp_right And.right
  · exact canonical_canon _

theorem length_pmulm_le (f : BitVec 9) (a : Poly) (k : Byte) (e : Nat) : (pmulm f a k e).length ≤ max 1 (a.length + e) := by
  unfold pmulm
  split_ifs
  · exact le_max_left _ _
  · simpa [scale] using length_canon_le (scale f a k ++ List.replicate e 0#8)

/-! ## Division (R99) -/

/-- Every pass of R99's loop keeps quotient and remainder canonical and within PMAX: the leading coefficient of the term it adds to the quotient is a product of nonzero elements. -/
theorem polyOK_divLoop {b : Poly} (hb : 1 ≤ b.length) {il : Byte} (hil : il ≠ 0#8) (fuel : Nat) {q r : Poly}
    (hq : polyOK q) (hr : polyOK r) :
    polyOK (divLoop fieldPoly b il fuel q r).1 ∧ polyOK (divLoop fieldPoly b il fuel q r).2 := by
  induction fuel generalizing q r with
  | zero => exact ⟨hq, hr⟩
  | succ fuel ih =>
    unfold divLoop
    split_ifs with more
    · simp only [Bool.and_eq_true, decide_eq_true_eq, Bool.not_eq_true'] at more
      obtain ⟨longer, nonzero⟩ := more
      obtain ⟨canonicalR, fits⟩ := polyOK_iff.1 hr
      have term : polyOK (gfMul fieldPoly (lead r) il :: List.replicate (r.length - b.length) 0#8) :=
        polyOK_monomial (gfMul_ne_zero (lead_ne_zero canonicalR nonzero) hil) (by omega)
      have subtrahend : polyOK (pmulm fieldPoly b (gfMul fieldPoly (lead r) il) (r.length - b.length)) :=
        polyOK_iff.2 ⟨canonical_pmulm .., (length_pmulm_le ..).trans (by omega)⟩
      exact ih (polyOK_padd hq term) (polyOK_padd hr subtrahend)
    · exact ⟨hq, hr⟩

/-- Quotient and remainder of a division by a nonzero polynomial. -/
theorem polyOK_pdivmod {a b : Poly} (ha : polyOK a) (hb : polyOK b) (nonzero : isZeroP b = false) :
    polyOK (pdivmod fieldPoly a b).1 ∧ polyOK (pdivmod fieldPoly a b).2 :=
  polyOK_divLoop hb.1 (gfInv_ne_zero (lead_ne_zero (polyOK_iff.1 hb).1 nonzero)) _ polyOK_pzero ha

end Sys2Proof.Machine

/-! PROOFS. 10_state.md: everything a command can do, said once. `Writes` lists what a command that succeeds has written before its completion, with what later proofs need of the values; `exec_cases` says that every command ends in one of these, completed, or in an error record. -/

namespace Sys2Proof.Machine

/-! ## What a sequence of checks can answer -/

/-- A result that has `P` where it succeeds, and where it fails carries an error that some command raises (R143, R86). -/
def Answers {α : Type} (P : α → Prop) : Except CmdError α → Prop
  | .ok a => P a
  | .error x => x.kind ≠ .fieldMismatch

section
variable {α β : Type} {P : α → Prop} {Q : β → Prop}

theorem Answers.ok {a : α} (h : P a) : Answers P (.ok a) := h

theorem Answers.bind {r : Except CmdError β} {f : β → Except CmdError α} (hr : Answers Q r)
    (hf : ∀ b, Q b → Answers P (f b)) : Answers P (r >>= f) := by
  cases r with
  | ok b => exact hf b hr
  | error x => exact hr

/-- What a result answers is what it was found to be. -/
theorem Answers.self {r : Except CmdError α} (h : ∀ x, r = .error x → x.kind ≠ .fieldMismatch) : Answers (fun a => r = .ok a) r := by
  cases r with
  | ok a => exact rfl
  | error x => exact h x rfl

theorem Answers.failIf {bad : Bool} {x : CmdError} (hx : x.kind ≠ .fieldMismatch) :
    Answers (fun _ => bad = false) (failIf bad x) := by
  cases bad with
  | false => exact rfl
  | true => exact hx

end

/-- Every valid P register holds a canonical polynomial (R17). -/
def State.PolysOK (s : State) : Prop := ∀ k : PReg, s.validP k → polyOK (s.valueP k)

theorem readE_answers (s : State) (r : EReg) : Answers (fun _ => True) (readE s r) := by
  rcases readE_cases s r with ⟨-, h⟩ | ⟨-, h⟩ <;> rw [h]
  · trivial
  · exact ErrKind.noConfusion

theorem readP_answers (s : State) (r : PReg) : Answers (fun p => s.PolysOK → polyOK p) (readP s r) := by
  rcases readP_cases s r with ⟨valid, h⟩ | ⟨-, h⟩ <;> rw [h]
  · exact fun polys => polys r valid
  · exact ErrKind.noConfusion

theorem readT_answers (s : State) : Answers (fun _ => True) (readT s) := by
  rcases readT_cases s with ⟨-, h⟩ | ⟨-, h⟩ <;> rw [h]
  · trivial
  · exact ErrKind.noConfusion

theorem needMatrix_answers (s : State) : Answers (fun d => s.bmDim ≠ 0#32 ∧ d = s.bmDim.toNat) (needMatrix s) := by
  rcases needMatrix_cases s with ⟨matrix, h⟩ | ⟨-, h⟩ <;> rw [h]
  · exact ⟨matrix, rfl⟩
  · exact ErrKind.noConfusion

theorem checkModule_answers (s : State) (x y : Nat) : Answers (fun _ => True) (checkModule s x y) := by
  rcases checkModule_cases s x y with ⟨-, -, -, h⟩ | ⟨-, h⟩ | ⟨-, -, h⟩ <;> rw [h]
  · trivial
  · exact ErrKind.noConfusion
  · exact ErrKind.noConfusion

theorem checkDim_answers (d : Nat) : Answers (fun _ => dimOK d = true) (checkDim d) := by
  rcases checkDim_cases d with ⟨legal, h⟩ | ⟨-, h⟩ <;> rw [h]
  · exact legal
  · exact ErrKind.noConfusion

theorem checkImage_answers (s : State) : Answers (fun _ => True) (checkImage s) := by
  rcases checkImage_cases s with ⟨-, h⟩ | ⟨-, h⟩ <;> rw [h]
  · trivial
  · exact ErrKind.noConfusion

theorem checkPointCount_answers (n : Nat) : Answers (fun _ => n ≤ Config.ptmax) (checkPointCount n) := by
  rcases checkPointCount_cases n with ⟨fits, h⟩ | ⟨-, h⟩ <;> rw [h]
  · exact fits
  · exact ErrKind.noConfusion

/-! ## Geometry and sampler -/

/-- The transform that is built is finite (R104). -/
theorem build_answers (q : Vector F64 16) : Answers (fun t => t.allFinite = true) (build q) := by
  refine .bind (.failIf nofun) fun _ _ => .bind (.failIf nofun) fun _ _ => .bind (.failIf nofun) fun _ finite => ?_
  exact (Bool.not_eq_false' _).mp finite

theorem checkFinite_answers (row p : Nat) (pts : List Point) : Answers (fun _ => True) (checkFinite row p pts) := by
  induction pts generalizing p with
  | nil => trivial
  | cons pt pts ih =>
    unfold checkFinite
    split
    · exact ih (p + 1)
    · exact ErrKind.noConfusion

theorem nudgeOne_answers (w h row p : Nat) (pt : Point) : Answers (fun _ => True) (nudgeOne w h row p pt) := by
  unfold nudgeOne
  split
  · exact ErrKind.noConfusion
  · trivial

theorem nudgeScan_answers (w h row : Nat) (pts : List (Nat × Point)) :
    Answers (fun out => out.length = pts.length) (nudgeScan w h row pts) := by
  induction pts with
  | nil => exact rfl
  | cons c pts ih =>
    refine .bind (nudgeOne_answers ..) fun r _ => ?_
    split
    · exact ih.bind fun rest same => congrArg (· + 1) same
    · exact rfl

/-- The nudge gives as many points as it takes (R111). -/
theorem nudge_answers (w h row : Nat) (pts : List Point) : Answers (fun out => out.length = pts.length) (nudge w h row pts) := by
  refine .bind (checkFinite_answers ..) fun _ _ => .bind (nudgeScan_answers ..) fun front hf =>
    .bind (nudgeScan_answers ..) fun back hb => ?_
  simp only [List.length_reverse, List.length_map, List.length_zipIdx] at hf hb
  show (back.reverse.map fun c => c.2).length = pts.length
  rw [List.length_map, List.length_reverse, hb, hf]

theorem samplePixel_answers (s : State) (y x : Nat) (pt : Point) : Answers (fun _ => True) (samplePixel s y x pt) := by
  simp only [samplePixel]
  split
  · exact ErrKind.noConfusion
  · trivial

theorem sampleRow_answers (s : State) (y x : Nat) (pts : List Point) : Answers (fun _ => True) (sampleRow s y x pts) := by
  induction pts generalizing x with
  | nil => trivial
  | cons pt pts ih => exact .bind (samplePixel_answers ..) fun _ _ => (ih (x + 1)).bind fun _ _ => trivial

theorem gridRow_answers (s : State) (t : Transform) (dim y : Nat) : Answers (fun _ => True) (gridRow s t dim y) :=
  .bind (nudge_answers ..) fun _ _ => .bind (sampleRow_answers ..) fun _ _ => trivial

theorem gridRows_answers (s : State) (t : Transform) (dim n y : Nat) : Answers (fun _ => True) (gridRows s t dim n y) := by
  induction n generalizing y with
  | zero => trivial
  | succ n ih => exact .bind (gridRow_answers ..) fun _ _ => (ih (y + 1)).bind fun _ _ => trivial

theorem sample_answers (s : State) (t : Transform) (dim : Nat) : Answers (fun _ => True) (sample s t dim) :=
  .bind (gridRows_answers ..) fun _ _ => trivial

/-! ## The decoder -/

theorem readFmt_answers (c : Configuration) (s : State) (d : Nat) : Answers (fun f => readFmt c s d = .ok f) (readFmt c s d) :=
  .self fun x h => by simp [readFmt_error h]

theorem readVer_answers (c : Configuration) (s : State) (d : Nat) : Answers (fun w => readVer c s d = .ok w) (readVer c s d) :=
  .self fun x h => by simp [readVer_error h]

theorem totalCodewords_le (v : Nat) : totalCodewords v ≤ Config.cwmax := by
  have entries : ∀ n ∈ totalTable, n ≤ 3706 := by decide
  rw [totalCodewords, List.getD_eq_getElem?_getD]
  cases h : totalTable[v - 1]? with
  | none => exact Nat.zero_le _
  | some n => exact entries n (List.mem_of_getElem? h)

/-! ## What a command writes -/

/-- What each command has written when it succeeds, before its completion (R54): the state `u` from the state `s`, with what the written values keep to. -/
inductive Writes (s : State) : Instr → State → Prop
  | nothing : Writes s .nop s
  | element {i : Instr} {d : EReg} (v : Byte) (dest : destinationE i = some d) : Writes s i (writeE s d v)
  | polynomial {i : Instr} {d : PReg} {v : Poly} (dest : destinationsP i = [d]) (value : s.PolysOK → polyOK v) :
      Writes s i (writeP s d v)
  | division {q r a b : PReg} {v w : Poly} (values : s.PolysOK → polyOK v ∧ polyOK w) :
      Writes s (.pDiv q r a b) (writeP (writeP s q v) r w)
  | result {i : Instr} (w : Word) (dest : writesRes i) : Writes s i { s with res := w }
  | accumulator {x y : Byte} (w : Word) : Writes s (.dRdbit x y) { s with acc := w }
  | transform {t : Transform} (finite : t.allFinite = true) : Writes s .tQq (writeT s t)
  | points {i : Instr} {pts : List Point} (count : pts.length = pointsStored i) (fits : pts.length ≤ Config.ptmax) :
      Writes s i (storePoints s pts)
  | matrix {i : Instr} {d : Nat} (m : BitMatrix) (creates : createsMatrix i) (legal : dimOK d = true) :
      Writes s i (newMatrix s m d)
  | quad {dim : BitVec 12} {t : Transform} {d : Nat} (m : BitMatrix) (finite : t.allFinite = true) (legal : dimOK d = true) :
      Writes s (.sQuad dim) (newMatrix (writeT s t) m d)
  | modules {i : Instr} (m : BitMatrix) (changes : changesModules i) : Writes s i { s with bm := m }
  | symbol : Writes s .dNew { s with fmt := 0#32, ver := 0#32, acc := 0#32 }
  | format {f : Word} (present : s.bmDim ≠ 0#32) (read : readFmt standard s s.bmDim.toNat = .ok f) :
      Writes s .dFmt { s with fmt := f }
  | version {w : Word} (present : s.bmDim ≠ 0#32) (read : readVer standard s s.bmDim.toNat = .ok w) :
      Writes s .dVer { s with ver := w }
  | codewords {f w : Word} {out : List Byte} (m : BitMatrix) (present : s.bmDim ≠ 0#32)
      (readF : readFmt standard s s.bmDim.toNat = .ok f) (readV : readVer standard s s.bmDim.toNat = .ok w)
      (fits : out.length ≤ Config.cwmax) :
      Writes s .dCw { s with
        fmt := f, ver := w, bm := m, mem := s.mem.writeBytes (cwAddr 0) out, cwCount := BitVec.ofNat 32 out.length }

/-- Every command is a sequence of checks that ends in one of its writes (R54). -/
theorem exec_answers (i : Instr) (s : State) : ∃ r, exec i s = finish s r ∧ Answers (Writes s i) r := by
  cases i with
  | nop => exact ⟨_, rfl, .ok .nothing⟩
  | gfLi d imm => exact ⟨_, rfl, .ok (.element imm rfl)⟩
  | gfAdd d a b =>
    exact ⟨_, rfl, .bind (readE_answers ..) fun _ _ => .bind (readE_answers ..) fun _ _ => .element _ rfl⟩
  | gfMul d a b =>
    exact ⟨_, rfl, .bind (readE_answers ..) fun _ _ => .bind (readE_answers ..) fun _ _ => .element _ rfl⟩
  | gfInv d a => exact ⟨_, rfl, .bind (readE_answers ..) fun _ _ => .bind (.failIf nofun) fun _ _ => .element _ rfl⟩
  | pZero d => exact ⟨_, rfl, .ok (.polynomial rfl fun _ => polyOK_pzero)⟩
  | pOne d => exact ⟨_, rfl, .ok (.polynomial rfl fun _ => polyOK_singleton _)⟩
  | pMono d a deg =>
    refine ⟨_, rfl, .bind (readE_answers ..) fun c _ => .bind (.failIf nofun) fun _ _ => ?_⟩
    split
    · exact .polynomial rfl fun _ => polyOK_pzero
    · rename_i nonzero
      refine .bind (.failIf nofun) fun _ fits => .polynomial rfl fun _ => polyOK_monomial nonzero ?_
      simpa using fits
  | pLd d n =>
    refine ⟨_, rfl, .bind (.failIf nofun) fun _ inRange => .polynomial rfl fun _ => polyOK_canon ?_⟩
    simp only [Bool.or_eq_false_iff, decide_eq_false_iff_not, not_lt] at inRange
    simpa using inRange.2
  | pDeg a => exact ⟨_, rfl, .bind (readP_answers ..) fun _ _ => .result _ (.inl ⟨a, rfl⟩)⟩
  | pIsz a => exact ⟨_, rfl, .bind (readP_answers ..) fun _ _ => .result _ (.inr (.inl ⟨a, rfl⟩))⟩
  | pCoef d a k => exact ⟨_, rfl, .bind (readP_answers ..) fun _ _ => .bind (.failIf nofun) fun _ _ => .element _ rfl⟩
  | pEval d a b => exact ⟨_, rfl, .bind (readP_answers ..) fun _ _ => .bind (readE_answers ..) fun _ _ => .element _ rfl⟩
  | pAdd d a b =>
    exact ⟨_, rfl, .bind (readP_answers ..) fun _ hx => .bind (readP_answers ..) fun _ hy =>
      .polynomial rfl fun polys => polyOK_padd (hx polys) (hy polys)⟩
  | pMul d a b =>
    refine ⟨_, rfl, .bind (readP_answers ..) fun x _ => .bind (readP_answers ..) fun y hy => .bind (.failIf nofun) fun _ fits =>
      .polynomial rfl fun polys => polyOK_pmul _ (hy polys).1 fun hx0 hy0 => ?_⟩
    simpa [hx0, hy0] using fits
  | pMuls d a b =>
    refine ⟨_, rfl, .bind (readP_answers ..) fun x hx => .bind (readE_answers ..) fun k _ => .polynomial rfl fun polys => ?_⟩
    split_ifs
    · exact polyOK_pzero
    · exact hx polys
    · exact polyOK_scale _ (hx polys) k
  | pMulm d a b deg =>
    refine ⟨_, rfl, .bind (readP_answers ..) fun x _ => .bind (readE_answers ..) fun k _ => .bind (.failIf nofun) fun _ _ =>
      .bind (.failIf nofun) fun _ fits => .polynomial rfl fun _ => polyOK_iff.2 ⟨canonical_pmulm .., ?_⟩⟩
    simpa using fits
  | pDiv q r a b =>
    exact ⟨_, rfl, .bind (.failIf nofun) fun _ _ => .bind (readP_answers ..) fun x hx => .bind (readP_answers ..) fun y hy =>
      .bind (.failIf nofun) fun _ nonzero => .division fun polys => polyOK_pdivmod (hx polys) (hy polys) nonzero⟩
  | tQq => exact ⟨_, rfl, .bind (build_answers ..) fun _ finite => .transform finite⟩
  | tMap n =>
    have count : ∀ t, ((s.points n.toNat).map (mapPt t)).length = n.toNat := by simp [State.points]
    exact ⟨_, rfl, .bind (readT_answers ..) fun t _ => .bind (checkPointCount_answers ..) fun _ fits =>
      .bind (checkFinite_answers ..) fun _ _ => .points (count t) ((count t).trans_le fits)⟩
  | sNudge n =>
    have count : (s.points n.toNat).length = n.toNat := by simp [State.points]
    exact ⟨_, rfl, .bind (checkPointCount_answers ..) fun _ fits => .bind (checkImage_answers ..) fun _ _ =>
      .bind (nudge_answers ..) fun _ same => .points (same.trans count) ((same.trans count).trans_le fits)⟩
  | sGrid dim =>
    exact ⟨_, rfl, .bind (readT_answers ..) fun _ _ => .bind (checkDim_answers ..) fun _ legal =>
      .bind (checkImage_answers ..) fun _ _ => .bind (sample_answers ..) fun m _ => .matrix m (.inr (.inl ⟨dim, rfl⟩)) legal⟩
  | sQuad dim =>
    exact ⟨_, rfl, .bind (checkDim_answers ..) fun _ legal => .bind (checkImage_answers ..) fun _ _ =>
      .bind (build_answers ..) fun _ finite => .bind (sample_answers ..) fun m _ => .quad m finite legal⟩
  | mInit dim => exact ⟨_, rfl, .bind (checkDim_answers ..) fun _ legal => .matrix _ (.inl ⟨dim, rfl⟩) legal⟩
  | mSet x y => exact ⟨_, rfl, .bind (checkModule_answers ..) fun _ _ => .modules _ (.inl ⟨x, y, rfl⟩)⟩
  | mGet x y => exact ⟨_, rfl, .bind (checkModule_answers ..) fun _ _ => .result _ (.inr (.inr ⟨x, y, rfl⟩))⟩
  | dNew => exact ⟨_, rfl, .ok .symbol⟩
  | dRdbit x y => exact ⟨_, rfl, .bind (checkModule_answers ..) fun _ _ => .accumulator _⟩
  | dFmt =>
    refine ⟨_, rfl, .bind (needMatrix_answers ..) ?_⟩
    rintro d ⟨present, rfl⟩
    exact .bind (readFmt_answers ..) fun _ read => .format present read
  | dVer =>
    refine ⟨_, rfl, .bind (needMatrix_answers ..) ?_⟩
    rintro d ⟨present, rfl⟩
    exact .bind (readVer_answers ..) fun _ read => .version present read
  | dUnmask m => exact ⟨_, rfl, .bind (needMatrix_answers ..) fun _ _ => .modules _ (.inr (.inl ⟨m, rfl⟩))⟩
  | dCw =>
    refine ⟨_, rfl, .bind (needMatrix_answers ..) ?_⟩
    rintro d ⟨present, rfl⟩
    refine .bind (readFmt_answers ..) fun f readF => .bind (readVer_answers ..) fun w readV => .bind (.failIf nofun) fun _ count =>
      .codewords _ present readF readV ?_
    exact (bne_eq_false_iff_eq.1 count).trans_le (totalCodewords_le _)

/-- Everything a command can do: its writes and the completion, or the error record alone (R54, R144). -/
theorem exec_cases {i : Instr} {s t : State} (h : exec i s = .next t) :
    (∃ u, Writes s i u ∧ t = complete u) ∨ ∃ x : CmdError, x.kind ≠ .fieldMismatch ∧ t = raise x s := by
  obtain ⟨r, run, answers⟩ := exec_answers i s
  rcases finish_next s r t (run.symm.trans h) with ⟨u, rfl, rfl⟩ | ⟨x, rfl, rfl⟩
  · exact .inl ⟨u, answers, rfl⟩
  · exact .inr ⟨x, answers, rfl⟩

end Sys2Proof.Machine

/-! PROOFS. 10_state.md: what a command changes (O25), read off `Writes`. -/

namespace Sys2Proof.Machine

/-! ## Storage outside the written bytes, whatever its form -/

theorem Memory.read_write_of_ne (m : Memory) {a x : Nat} (h : x ≠ a) (b : Byte) : (m.write a b).read x = m.read x := by
  simp only [Memory.read, Memory.write_unlisted]
  simp only [Memory.write, lookupCell_insertCell_ne _ a b x h]

theorem Memory.read_writeBytes_of_outside (m : Memory) (a : Nat) (bs : List Byte) {x : Nat} (h : x < a ∨ a + bs.length ≤ x) :
    (m.writeBytes a bs).read x = m.read x := by
  induction bs generalizing m a with
  | nil => rfl
  | cons b bs ih =>
    simp only [List.length_cons] at h
    rw [Memory.writeBytes_cons, ih _ _ (by omega), Memory.read_write_of_ne _ (by omega)]

theorem read_writePoints_of_outside (m : Memory) (k : Nat) (vs : List F64) {x : Nat} (h : x < ptAddr k ∨ ptAddr (k + vs.length) ≤ x) :
    (writePoints m k vs).read x = m.read x := by
  induction vs generalizing m k with
  | nil => rfl
  | cons v vs ih =>
    simp only [List.length_cons, ptAddr] at h
    have outside : ∀ j ≤ 4, x < ptAddr k + j ∨ ptAddr k + j + 4 ≤ x := fun j hj => by simp only [ptAddr]; omega
    rw [writePoints, ih _ _ (by simp only [ptAddr]; omega), Memory.writeF64, Memory.writeWord, Memory.writeWord,
      Memory.read_writeBytes_of_outside _ _ _ (outside 4 le_rfl), Memory.read_writeBytes_of_outside _ _ _ (outside 0 (by decide))]

theorem length_coordinates (pts : List Point) : (pts.flatMap fun pt => [pt.1, pt.2]).length = 2 * pts.length := by
  induction pts with
  | nil => rfl
  | cons pt pts ih =>
    simp only [List.flatMap_cons, List.length_append, ih, List.length_cons, List.length_nil]
    omega

/-! ## What each kind of write leaves alone -/

theorem writeE_keeps (s : State) {r k : EReg} (hk : k ≠ r) (v : Byte) :
    (writeE s r v).valueE k = s.valueE k ∧ (writeE s r v).ev.getLsbD k.toNat = s.ev.getLsbD k.toNat := by
  obtain ⟨value, valid⟩ := writeE_get s r k v
  rw [if_neg hk] at value
  rw [decide_eq_false hk, Bool.false_or] at valid
  exact ⟨value, valid⟩

theorem writeP_keeps (s : State) {r k : PReg} (hk : k ≠ r) (v : Poly) :
    (writeP s r v).valueP k = s.valueP k ∧ (writeP s r v).pv.getLsbD k.toNat = s.pv.getLsbD k.toNat := by
  obtain ⟨value, valid⟩ := writeP_get s r k v
  rw [if_neg hk] at value
  rw [decide_eq_false hk, Bool.false_or] at valid
  exact ⟨value, valid⟩

section
variable {s u : State} {i : Instr}

theorem Writes.keeps_element (h : Writes s i u) (k : EReg) (hk : destinationE i ≠ some k) :
    u.valueE k = s.valueE k ∧ u.ev.getLsbD k.toNat = s.ev.getLsbD k.toNat := by
  cases h with
  | element v dest => exact writeE_keeps s (fun same => hk (dest.trans (congrArg some same.symm))) v
  | _ => exact ⟨rfl, rfl⟩

theorem Writes.keeps_polynomial (h : Writes s i u) (k : PReg) (hk : k ∉ destinationsP i) :
    u.valueP k = s.valueP k ∧ u.pv.getLsbD k.toNat = s.pv.getLsbD k.toNat := by
  cases h with
  | polynomial dest value =>
    rw [dest, List.mem_singleton] at hk
    exact writeP_keeps s hk _
  | @division q r a b v w values =>
    simp only [destinationsP, List.mem_cons, List.not_mem_nil, or_false, not_or] at hk
    obtain ⟨notQ, notR⟩ := hk
    have first := writeP_keeps s notQ v
    have second := writeP_keeps (writeP s q v) notR w
    exact ⟨second.1.trans first.1, second.2.trans first.2⟩
  | _ => exact ⟨rfl, rfl⟩

theorem Writes.keeps_transform (h : Writes s i u) (hi : ¬ writesTransform i) : u.t = s.t ∧ u.tv = s.tv := by
  cases h with
  | transform => exact absurd (.inl rfl) hi
  | quad => exact absurd (.inr ⟨_, rfl⟩) hi
  | _ => exact ⟨rfl, rfl⟩

theorem Writes.keeps_res (h : Writes s i u) (hi : ¬ writesRes i) : u.res = s.res := by
  cases h with
  | result w dest => exact absurd dest hi
  | _ => rfl

theorem Writes.keeps_acc (h : Writes s i u) (hi : ¬ writesAcc i) : u.acc = s.acc := by
  cases h with
  | accumulator => exact absurd (.inr ⟨_, _, rfl⟩) hi
  | symbol => exact absurd (.inl rfl) hi
  | _ => rfl

theorem Writes.keeps_bmDim (h : Writes s i u) (hi : ¬ createsMatrix i) : u.bmDim = s.bmDim := by
  cases h with
  | matrix m creates => exact absurd creates hi
  | quad => exact absurd (.inr (.inr ⟨_, rfl⟩)) hi
  | _ => rfl

theorem Writes.keeps_bm (h : Writes s i u) (hc : ¬ createsMatrix i) (hm : ¬ changesModules i) : u.bm = s.bm := by
  cases h with
  | matrix m creates => exact absurd creates hc
  | quad => exact absurd (.inr (.inr ⟨_, rfl⟩)) hc
  | modules m changes => exact absurd changes hm
  | codewords => exact absurd (.inr (.inr rfl)) hm
  | _ => rfl

theorem Writes.keeps_memos (h : Writes s i u) (hi : ¬ clearsMemos i) (hcw : i ≠ .dCw) :
    (i ≠ .dFmt → u.fmt = s.fmt) ∧ (i ≠ .dVer → u.ver = s.ver) := by
  cases h with
  | matrix m creates => exact absurd (.inl creates) hi
  | quad => exact absurd (.inl (.inr (.inr ⟨_, rfl⟩))) hi
  | symbol => exact absurd (.inr rfl) hi
  | format => exact ⟨fun other => absurd rfl other, fun _ => rfl⟩
  | version => exact ⟨fun _ => rfl, fun other => absurd rfl other⟩
  | codewords => exact absurd rfl hcw
  | _ => exact ⟨fun _ => rfl, fun _ => rfl⟩

theorem Writes.keeps_cwCount (h : Writes s i u) (hi : i ≠ .dCw) : u.cwCount = s.cwCount := by
  cases h with
  | codewords => exact absurd rfl hi
  | _ => rfl

theorem Writes.keeps_storage (h : Writes s i u) {a : Nat} (notPoint : ¬ (ptAddr 0 ≤ a ∧ a < ptAddr (2 * pointsStored i)))
    (notCodeword : ¬ (i = .dCw ∧ cwAddr 0 ≤ a ∧ a < cwAddr u.cwCount.toNat)) : u.mem.read a = s.mem.read a := by
  cases h with
  | points count fits =>
    refine read_writePoints_of_outside _ _ _ ?_
    rw [length_coordinates, count, Nat.zero_add]
    omega
  | @codewords f w out m present readF readV fits =>
    refine Memory.read_writeBytes_of_outside _ _ _ ?_
    simp only [Config.cwmax] at fits
    simp only [true_and, cwAddr, BitVec.toNat_ofNat, Nat.mod_eq_of_lt (show out.length < 2 ^ 32 by omega)] at notCodeword ⊢
    omega
  | _ => rfl

/-- No command writes what the host alone writes, the latched word, or what stands outside the block. -/
theorem Writes.keeps_host (h : Writes s i u) :
    u.q = s.q ∧ u.imgW = s.imgW ∧ u.imgH = s.imgH ∧ u.doneIe = s.doneIe ∧ u.errIe = s.errIe ∧ u.drop = s.drop ∧
    u.cmdLatch = s.cmdLatch ∧ u.rst = s.rst ∧ u.rdata = s.rdata ∧ u.inputs = s.inputs ∧ u.draws = s.draws := by
  cases h <;> exact ⟨rfl, rfl, rfl, rfl, rfl, rfl, rfl, rfl, rfl, rfl, rfl⟩

end

/-- Settles O25: a command that fails changes the error record alone, and one that succeeds what `Writes` lists. -/
theorem commandFootprint : Obligations.CommandFootprint := by
  intro i s t h
  rcases exec_cases h with ⟨u, w, rfl⟩ | ⟨x, -, rfl⟩
  · exact ⟨w.keeps_element, w.keeps_polynomial, w.keeps_transform, w.keeps_res, w.keeps_acc, w.keeps_bmDim, w.keeps_bm,
      fun hi hf hcw => (w.keeps_memos hi hcw).1 hf, fun hi hv hcw => (w.keeps_memos hi hcw).2 hv, w.keeps_cwCount,
      fun a => w.keeps_storage, w.keeps_host⟩
  · exact ⟨fun _ _ => ⟨rfl, rfl⟩, fun _ _ => ⟨rfl, rfl⟩, fun _ => ⟨rfl, rfl⟩, fun _ => rfl, fun _ => rfl, fun _ => rfl,
      fun _ _ => rfl, fun _ _ _ => rfl, fun _ _ _ => rfl, fun _ => rfl, fun _ _ _ => rfl,
      rfl, rfl, rfl, rfl, rfl, rfl, rfl, rfl, rfl, rfl, rfl⟩

end Sys2Proof.Machine

/-! PROOFS. 10_state.md: what every step of the machine keeps: the valid bits (O26) and the invariants (O23, O24). -/

namespace Sys2Proof.Machine

/-! ## What a step can do -/

/-- The block's own step: nothing, a command, or IllegalCommand (R54, R59, R156). -/
theorem blockStep_cases {s t : State} (h : blockStep s = .next t) :
    t = s ∨ (∃ i, exec i s = .next t) ∨ t = raise (err .illegalCommand) s := by
  unfold blockStep blockStepBy at h
  split at h
  · cases h
    exact .inl rfl
  · split at h
    · rename_i i _
      exact .inr (.inl ⟨i, h⟩)
    · cases h
      exact .inr (.inr rfl)

/-- One step is the block's own, a host access or a level of `rst` (R50, R54). -/
theorem step_cases {s t : State} (h : step s = .next t) :
    ∃ rest, ((s.inputs = [] ∨ s.inputs = .blockTurn :: rest) ∧ blockStep { s with inputs := rest } = .next t) ∨
      (∃ a, s.inputs = .read a :: rest ∧ t = hostRead a { s with inputs := rest }) ∨
      (∃ a v, s.inputs = .write a v :: rest ∧ t = hostWrite a v { s with inputs := rest }) ∨
      (∃ level, s.inputs = .rst level :: rest ∧ t = driveRst level { s with inputs := rest }) := by
  unfold step stepBy at h
  split at h
  · rename_i none
    refine ⟨[], .inl ⟨.inl none, ?_⟩⟩
    rwa [← none]
  · rename_i input rest first
    refine ⟨rest, ?_⟩
    cases input with
    | blockTurn => exact .inl ⟨.inr first, h⟩
    | read a => cases h; exact .inr (.inl ⟨a, first, rfl⟩)
    | write a v => cases h; exact .inr (.inr (.inl ⟨a, v, first, rfl⟩))
    | rst level => cases h; exact .inr (.inr (.inr ⟨level, first, rfl⟩))

/-! ## Where the map places what a host write reaches (R43) -/

/-- The byte addresses at which CTRL and the storage windows stand. -/
def Target.placedAt (a : Nat) : Target → Prop
  | .ctrl => a / 4 = 1
  | .point x => x = a ∧ 0x1000 ≤ a ∧ a < 0x2000
  | .load k => k < 512
  | .pixel x => x = a ∧ 0x100000 ≤ a ∧ a < 0x180000
  | _ => True

theorem registerAt_placedAt {a k : Nat} (h : a / 4 = k) : (registerAt k).placedAt a := by
  unfold registerAt
  split <;> simp only [Target.placedAt]
  exact h

theorem target_placedAt (a : Nat) : (target a).placedAt a := by
  unfold target
  repeat' refine iteInduction (motive := Target.placedAt a) (fun _ => ?_) fun _ => ?_
  · exact registerAt_placedAt rfl
  all_goals simp only [Target.placedAt, eq_self, true_and]
  all_goals omega

/-- CTRL stands at one word of the map. -/
theorem eq_one_of_target_ctrl {a : BitVec 19} (h : target (byteAddr a) = .ctrl) : a = 1#19 := by
  have place := target_placedAt (byteAddr a)
  rw [h] at place
  simp only [Target.placedAt, byteAddr] at place
  exact BitVec.eq_of_toNat_eq (show a.toNat = 1 by omega)

/-! ## Valid bits (R16, R17, R20) -/

/-- Every valid bit of E, P and T that is 1 in `s` is 1 in `t`. -/
def KeepsValid (s t : State) : Prop :=
  (∀ k, s.validE k → t.validE k) ∧ (∀ k, s.validP k → t.validP k) ∧ (s.tv = true → t.tv = true)

theorem keepsValid_of_eq {s t : State} (he : t.ev = s.ev) (hp : t.pv = s.pv) (ht : t.tv = s.tv) : KeepsValid s t := by
  simp only [KeepsValid, State.validE, State.validP, he, hp, ht]
  exact ⟨fun _ => id, fun _ => id, id⟩

theorem KeepsValid.trans {s t u : State} (st : KeepsValid s t) (tu : KeepsValid t u) : KeepsValid s u := by
  obtain ⟨elements, polys, transform⟩ := st
  obtain ⟨elements', polys', transform'⟩ := tu
  exact ⟨fun k => elements' k ∘ elements k, fun k => polys' k ∘ polys k, transform' ∘ transform⟩

theorem keepsValid_writeE (s : State) (r : EReg) (v : Byte) : KeepsValid s (writeE s r v) :=
  ⟨fun k hk => by rw [State.validE, (writeE_get s r k v).2, hk, Bool.or_true], fun _ => id, id⟩

theorem keepsValid_writeP (s : State) (r : PReg) (v : Poly) : KeepsValid s (writeP s r v) :=
  ⟨fun _ => id, fun k hk => by rw [State.validP, (writeP_get s r k v).2, hk, Bool.or_true], id⟩

theorem Writes.keepsValid {s u : State} {i : Instr} (h : Writes s i u) : KeepsValid s u := by
  cases h with
  | element => exact keepsValid_writeE ..
  | polynomial => exact keepsValid_writeP ..
  | division => exact (keepsValid_writeP ..).trans (keepsValid_writeP ..)
  | transform => exact ⟨fun _ => id, fun _ => id, fun _ => rfl⟩
  | quad => exact ⟨fun _ => id, fun _ => id, fun _ => rfl⟩
  | _ => exact keepsValid_of_eq rfl rfl rfl

theorem blockStep_keepsValid {s t : State} (h : blockStep s = .next t) : KeepsValid s t := by
  rcases blockStep_cases h with rfl | ⟨i, hi⟩ | rfl
  · exact keepsValid_of_eq rfl rfl rfl
  · rcases exec_cases hi with ⟨u, w, rfl⟩ | ⟨x, -, rfl⟩
    · exact w.keepsValid
    · exact keepsValid_of_eq rfl rfl rfl
  · exact keepsValid_of_eq rfl rfl rfl

theorem offerCommand_keepsValid (w : Word) (s : State) : KeepsValid s (offerCommand w s) := by
  unfold offerCommand
  split
  · exact keepsValid_of_eq rfl rfl rfl
  · exact keepsValid_of_eq rfl rfl rfl

/-- A host write that is no SOFT_RESET. -/
theorem hostWrite_keepsValid {s : State} {a : BitVec 19} {v : Word}
    (soft : s.rst = false → target (byteAddr a) = .ctrl → v.getLsbD 31 = false) : KeepsValid s (hostWrite a v s) := by
  rcases hostWrite_cases a v s with ⟨-, hw⟩ | ⟨-, -, -, hw⟩ | ⟨out, -, hw⟩ <;> rw [hw]
  · exact keepsValid_of_eq rfl rfl rfl
  · exact keepsValid_of_eq rfl rfl rfl
  · cases tgt : target (byteAddr a) with
    | ctrl =>
      rw [writeTarget, writeCtrl_eq_ctrlWritten (soft out tgt)]
      exact keepsValid_of_eq rfl rfl rfl
    | cmd => exact offerCommand_keepsValid v s
    | element k => exact keepsValid_writeE ..
    | _ => exact keepsValid_of_eq rfl rfl rfl

/-- Settles O26: the block's step and host writes only set valid bits, and nothing else reaches them. -/
theorem validBitsClearedOnlyByReset : Obligations.ValidBitsClearedOnlyByReset := by
  intro s t h noReset
  suffices KeepsValid s t from this
  obtain ⟨rest, ⟨-, block⟩ | ⟨a, -, rfl⟩ | ⟨a, v, first, rfl⟩ | ⟨level, first, rfl⟩⟩ := step_cases h
  · exact blockStep_keepsValid (s := { s with inputs := rest }) block
  · obtain ⟨value, n, read, -⟩ := hostRead_changes a { s with inputs := rest }
    rw [read]
    exact keepsValid_of_eq rfl rfl rfl
  · refine hostWrite_keepsValid (s := { s with inputs := rest }) fun out ctrl => ?_
    cases eq_one_of_target_ctrl ctrl
    simpa [State.resetNext, first, show s.rst = false from out] using noReset
  · have low : (level || s.rst) = false := by simpa [State.resetNext, first] using noReset
    rw [driveRst, if_neg (by simp [low])]
    exact keepsValid_of_eq rfl rfl rfl

end Sys2Proof.Machine

/-! PROOFS. 10_state.md: the invariants hold at reset (O23) and at every step after it (O24). -/

namespace Sys2Proof.Machine

/-! ## Reset -/

/-- Settles O23: every clause speaks of valid bits, memos, records or listed bytes, and reset has none. -/
theorem resetInvariant : Obligations.ResetInvariant where
  canonical := Memory.reset_wf
  exists_ := nofun
  polys := fun k valid => by simp [State.reset] at valid
  transform := nofun
  dim := .inl rfl
  format := .inl rfl
  version := .inl rfl
  count := Nat.zero_le _
  noRecord := fun _ => ⟨rfl, rfl, rfl, rfl⟩
  record := nofun
  inProgress := nofun
  held := nofun

/-- Any reset of the block establishes the invariants, whatever was before and whatever it draws (R158, R159). -/
theorem resetBlock_inv (s : State) : (resetBlock s).Inv where
  canonical := Memory.resetBlock_wf s
  exists_ := nofun
  polys := fun k valid => by simp at valid
  transform := nofun
  dim := .inl rfl
  format := .inl rfl
  version := .inl rfl
  count := Nat.zero_le _
  noRecord := fun _ => ⟨rfl, rfl, rfl, rfl⟩
  record := nofun
  inProgress := nofun
  held := fun _ => rfl

/-! ## The end of a command (R54, R144) -/

theorem latchable_code {k : ErrKind} (raised : k ≠ .fieldMismatch) : latchable k.code := by
  cases k with
  | fieldMismatch => exact absurd rfl raised
  | _ => decide

section
variable {s u : State} {i : Instr}

theorem State.Inv.complete (inv : s.Inv) : (complete s).Inv :=
  { inv with inProgress := nofun, held := fun _ => rfl }

theorem State.Inv.raise (inv : s.Inv) {x : CmdError} (raised : x.kind ≠ .fieldMismatch) : (raise x s).Inv :=
  { inv with noRecord := nofun, record := fun _ => latchable_code raised, inProgress := nofun, held := fun _ => rfl }

/-! ## Registers, matrix and memos that a command writes -/

theorem polysOK_writeP (polys : s.PolysOK) {v : Poly} (value : polyOK v) (r : PReg) : (writeP s r v).PolysOK := by
  intro k valid
  obtain ⟨content, bit⟩ := writeP_get s r k v
  rw [State.valueP, content]
  split_ifs with same
  · exact value
  · rw [State.validP, bit, decide_eq_false same, Bool.false_or] at valid
    exact polys k valid

theorem State.Inv.writeP (inv : s.Inv) {v : Poly} (value : polyOK v) (r : PReg) : (writeP s r v).Inv :=
  { inv with polys := polysOK_writeP inv.polys value r }

theorem State.Inv.writeT (inv : s.Inv) {t : Transform} (finite : t.allFinite = true) : (writeT s t).Inv :=
  { inv with transform := fun _ => finite }

/-- A new matrix has a legal dimension and starts with empty memos (R113). -/
theorem State.Inv.newMatrix (inv : s.Inv) (m : BitMatrix) {d : Nat} (legal : dimOK d = true) : (newMatrix s m d).Inv := by
  obtain ⟨v, -, hv, hd⟩ := exists_version_of_dimOK legal
  have small : d % 2 ^ 32 = d := Nat.mod_eq_of_lt (by rw [hd, dimension]; omega)
  refine { inv with dim := .inr ?_, format := .inl rfl, version := .inl rfl }
  rwa [newMatrix_bmDim, BitVec.toNat_ofNat, small]

theorem fmt_of_readFmt {c : Configuration} {d : Nat} {f : Word} (h : readFmt c s d = .ok f) : f = s.fmt ∨ ∃ r, f = fmtWord r := by
  simp only [readFmt] at h
  split at h
  · cases h
    exact .inl rfl
  · split at h
    · cases h
      exact .inr ⟨_, rfl⟩
    · split at h <;> cases h
      exact .inr ⟨_, rfl⟩

/-- FMT after D.FMT or D.CW (R27). -/
theorem State.Inv.format_of_readFmt (inv : s.Inv) {f : Word} (present : s.bmDim ≠ 0#32)
    (h : readFmt standard s s.bmDim.toNat = .ok f) : f = 0#32 ∨ (s.bmDim ≠ 0#32 ∧ ∃ r, f = fmtWord r) := by
  rcases fmt_of_readFmt h with rfl | datum
  · exact inv.format
  · exact .inr ⟨present, datum⟩

/-- VER after D.VER or D.CW (R27, R125). -/
theorem State.Inv.version_of_readVer (inv : s.Inv) {w : Word} (present : s.bmDim ≠ 0#32)
    (h : readVer standard s s.bmDim.toNat = .ok w) :
    w = 0#32 ∨ ∃ v, 1 ≤ v ∧ v ≤ Config.vmax ∧ w = verWord v ∧ s.bmDim.toNat = dimension v := by
  obtain ⟨v, h1, hv, hd⟩ := exists_version_of_dimOK (inv.dim.resolve_left present)
  rw [hd] at h
  exact .inr ⟨v, h1, hv, readVer_ok inv hd h, hd⟩

/-! ## Storage -/

/-- A run of bytes written where storage exists. -/
theorem State.Inv.writeBytes (inv : s.Inv) {a : Nat} {bs : List Byte} (inside : ∀ k < bs.length, inStorage (a + k)) :
    ({ s with mem := s.mem.writeBytes a bs } : State).Inv :=
  { inv with
    canonical := s.mem.writeBytes_wf inv.canonical a bs
    exists_ := s.mem.writeBytes_listed a bs inStorage inside inv.exists_ }

theorem State.Inv.storePoints (inv : s.Inv) {pts : List Point} (fits : pts.length ≤ Config.ptmax) : (storePoints s pts).Inv :=
  { inv with
    canonical := writePoints_wf _ inv.canonical _ _
    exists_ := by
      refine writePoints_listed _ _ _ inStorage (fun x above below => .inl ?_) inv.exists_
      simp only [length_coordinates, ptAddr, Config.ptmax] at above below fits
      omega }

/-- Every kind of write keeps the invariants (R17, R26–R28, R100). -/
theorem Writes.inv (h : Writes s i u) (inv : s.Inv) : u.Inv := by
  cases h with
  | polynomial dest value => exact inv.writeP (value inv.polys) _
  | division values =>
    obtain ⟨quotient, remainder⟩ := values inv.polys
    exact (inv.writeP quotient _).writeP remainder _
  | transform finite => exact inv.writeT finite
  | points count fits => exact inv.storePoints fits
  | matrix m creates legal => exact inv.newMatrix m legal
  | quad m finite legal => exact (inv.writeT finite).newMatrix m legal
  | symbol => exact { inv with format := .inl rfl, version := .inl rfl }
  | format present read => exact { inv with format := inv.format_of_readFmt present read }
  | version present read => exact { inv with version := inv.version_of_readVer present read }
  | @codewords f w out m present readF readV fits =>
    have stored := inv.writeBytes (a := cwAddr 0) (bs := out) fun k hk =>
      .inr (.inr (.inl ⟨Nat.le_add_right _ _, Nat.add_lt_add_left (hk.trans_le fits) _⟩))
    exact { stored with
      format := inv.format_of_readFmt present readF
      version := inv.version_of_readVer present readV
      count := (Nat.mod_le _ _).trans fits }
  | _ => exact { inv with }

theorem State.Inv.blockStep (inv : s.Inv) {t : State} (h : blockStep s = .next t) : t.Inv := by
  rcases blockStep_cases h with rfl | ⟨i, hi⟩ | rfl
  · exact inv
  · rcases exec_cases hi with ⟨u, w, rfl⟩ | ⟨x, raised, rfl⟩
    · exact (w.inv inv).complete
    · exact inv.raise raised
  · exact inv.raise ErrKind.noConfusion

/-! ## The host's accesses -/

theorem State.Inv.ctrlWritten (inv : s.Inv) (v : Word) : (ctrlWritten v s).Inv := by
  refine { inv with noRecord := fun noError => ?_, record := fun error => ?_, inProgress := fun busy => ?_ }
  · cases clear : v.getLsbD 8 with
    | true => simp only [Machine.ctrlWritten, clear, if_true, and_self]
    | false =>
      simp only [Machine.ctrlWritten, clear, Bool.not_false, Bool.and_true] at noError
      simpa only [Machine.ctrlWritten, clear, Bool.false_eq_true, if_false] using inv.noRecord noError
  · simp only [Machine.ctrlWritten, Bool.and_eq_true, Bool.not_eq_true'] at error
    obtain ⟨latched, keep⟩ := error
    simpa only [Machine.ctrlWritten, keep, Bool.false_eq_true, if_false] using inv.record latched
  · obtain ⟨noError, notDone⟩ := inv.inProgress busy
    simp only [Machine.ctrlWritten, noError, notDone, Bool.false_and, and_self]

theorem State.Inv.writeCtrl (inv : s.Inv) (v : Word) : (writeCtrl v s).Inv := by
  cases soft : v.getLsbD 31 with
  | true => exact writeCtrl_reset soft s ▸ resetBlock_inv s
  | false => exact writeCtrl_eq_ctrlWritten soft s ▸ inv.ctrlWritten v

theorem State.Inv.offerCommand (inv : s.Inv) (out : s.rst = false) (w : Word) : (offerCommand w s).Inv := by
  unfold Machine.offerCommand
  split
  · exact { inv with }
  · rename_i noError
    exact { inv with
      inProgress := fun _ => ⟨Bool.eq_false_iff.2 noError, rfl⟩
      held := fun inReset => absurd (out.symm.trans inReset) Bool.false_ne_true }

/-- A word written where the map has PT or PIX. -/
theorem State.Inv.writeWord (inv : s.Inv) {a : Nat} (inside : ∀ k < 4, inStorage (a + k)) (v : Word) :
    ({ s with mem := s.mem.writeWord a v } : State).Inv :=
  inv.writeBytes inside

theorem State.Inv.hostWrite (inv : s.Inv) (a : BitVec 19) (v : Word) : (hostWrite a v s).Inv := by
  rcases hostWrite_cases a v s with ⟨-, hw⟩ | ⟨-, -, -, hw⟩ | ⟨out, -, hw⟩ <;> rw [hw]
  · exact inv
  · exact { inv with }
  · have place := target_placedAt (byteAddr a)
    generalize target (byteAddr a) = tgt at place
    cases tgt with
    | ctrl => exact inv.writeCtrl v
    | cmd => exact inv.offerCommand out v
    | point x =>
      obtain ⟨rfl, low, high⟩ := place
      simp only [byteAddr] at low high
      exact inv.writeWord (fun k hk => .inl (by simp only [byteAddr]; omega)) v
    | load k =>
      have index : k < 512 := place
      refine inv.writeBytes (a := lbAddr k) (bs := [v.setWidth 8]) fun j hj => .inr (.inl ?_)
      simp only [List.length_singleton, lbAddr] at hj ⊢
      omega
    | pixel x =>
      obtain ⟨rfl, low, high⟩ := place
      simp only [byteAddr] at low high
      exact inv.writeWord (fun k hk => .inr (.inr (.inr (by simp only [byteAddr]; omega)))) v
    | _ => exact { inv with }

theorem State.Inv.driveRst (inv : s.Inv) (level : Bool) : (driveRst level s).Inv := by
  unfold Machine.driveRst
  split
  · exact { resetBlock_inv s with held := fun _ => rfl }
  · exact inv

end

/-- Settles O24: the block's step, a host access and a level of `rst` each keep the invariants. -/
theorem stepKeepsInvariant : Obligations.StepKeepsInvariant := by
  intro s t inv h
  obtain ⟨rest, next⟩ := step_cases h
  have popped : ({ s with inputs := rest } : State).Inv := { inv with }
  rcases next with ⟨-, block⟩ | ⟨a, -, rfl⟩ | ⟨a, v, -, rfl⟩ | ⟨level, -, rfl⟩
  · exact popped.blockStep block
  · obtain ⟨value, n, read, -⟩ := hostRead_changes a { s with inputs := rest }
    rw [read]
    exact { inv with }
  · exact popped.hostWrite a v
  · exact popped.driveRst level

end Sys2Proof.Machine

/-! PROOFS. 20_memory.md: what the host address map has at each word (R43), the accesses while BUSY = 1 (O8), the writes that are ignored and the reads, which have no side effect (O9). -/

namespace Sys2Proof.Machine

/-! ## The address map by word address (R38, R43) -/

theorem byteAddr_ofNat {w : Nat} (h : w < 2 ^ 19) : byteAddr (BitVec.ofNat 19 w) = 4 * w := by
  rw [byteAddr, BitVec.toNat_ofNat, Nat.mod_eq_of_lt h]

theorem hostUnmapped_iff (w : Nat) : hostUnmapped w = true ↔
    (0x10 ≤ w ∧ w < 0x40) ∨ (0x50 ≤ w ∧ w < 0x80) ∨ (0xB2 ≤ w ∧ w < 0x400) ∨ (0xA00 ≤ w ∧ w < 0x1000) ∨
    (0x3426 ≤ w ∧ w < 0x4000) ∨ (0x439F ≤ w ∧ w < 0x40000) ∨ 0x60000 ≤ w := by
  simp [hostUnmapped, or_assoc]

theorem hostWritable_iff (w : Nat) : hostWritable w = true ↔
    (w = 1 ∨ w = 6 ∨ w = 8 ∨ w = 9 ∨ w = 10) ∨ (0x40 ≤ w ∧ w < 0x50) ∨ (0x80 ≤ w ∧ w < 0xA0) ∨
    (0x400 ≤ w ∧ w < 0xA00) ∨ (0x3000 ≤ w ∧ w < 0x3426) ∨ (0x40000 ≤ w ∧ w < 0x60000) := by
  simp [hostWritable, or_assoc]

/-- Everything the map can name, each with the word addresses it stands at. -/
theorem target_elim {P : Target → Prop} (w : Nat)
    (register : w < 0x10 → P (registerAt w))
    (unmapped : hostUnmapped w = true → P .unmapped)
    (element : ∀ k, 0x40 ≤ w → w < 0x50 → P (.element k))
    (quad : ∀ k hi, 0x80 ≤ w → w < 0xA0 → P (.quad k hi))
    (transform : ∀ k hi, 0xA0 ≤ w → w < 0xB2 → P (.transform k hi))
    (point : 0x400 ≤ w → w < 0x800 → P (.point (4 * w)))
    (load : ∀ k, 0x800 ≤ w → w < 0xA00 → P (.load k))
    (poly : ∀ k i, 0x1000 ≤ w → w < 0x3000 → P (.poly k i))
    (matrix : ∀ y j, 0x3000 ≤ w → w < 0x3426 → P (.matrix y j))
    (codeword : 0x4000 ≤ w → w < 0x439F → P (.codeword (4 * w)))
    (pixel : 0x40000 ≤ w → w < 0x60000 → P (.pixel (4 * w))) : P (target (4 * w)) := by
  rw [hostUnmapped_iff] at unmapped
  unfold target
  repeat' refine iteInduction (motive := P) (fun _ => ?_) fun _ => ?_
  · rw [Nat.mul_div_cancel_left w (by decide)]
    exact register (by omega)
  · exact unmapped (by omega)
  · exact element _ (by omega) (by omega)
  · exact unmapped (by omega)
  · exact quad _ _ (by omega) (by omega)
  · exact transform _ _ (by omega) (by omega)
  · exact unmapped (by omega)
  · exact point (by omega) (by omega)
  · exact load _ (by omega) (by omega)
  · exact unmapped (by omega)
  · exact poly _ _ (by omega) (by omega)
  · exact matrix _ _ (by omega) (by omega)
  · exact unmapped (by omega)
  · exact codeword (by omega) (by omega)
  · exact unmapped (by omega)
  · exact pixel (by omega) (by omega)
  · exact unmapped (by omega)

theorem target_of_unmapped {w : Nat} (h : hostUnmapped w = true) : target (4 * w) = .unmapped := by
  have free := (hostUnmapped_iff w).mp h
  apply target_elim (P := (· = .unmapped))
  case unmapped => exact fun _ => rfl
  all_goals intros; exfalso; omega

/-- The registers that a host reads while BUSY = 1 stand at the first three words (R41). -/
theorem target_above_status {w : Nat} (h : 2 < w) : target (4 * w) ≠ .id ∧ target (4 * w) ≠ .ctrl ∧ target (4 * w) ≠ .status := by
  have registers : ∀ k < 0x10, 2 < k → registerAt k ≠ .id ∧ registerAt k ≠ .ctrl ∧ registerAt k ≠ .status := by decide
  apply target_elim (P := fun tgt => tgt ≠ .id ∧ tgt ≠ .ctrl ∧ tgt ≠ .status)
  case register => exact fun low => registers w low h
  all_goals intros; exact ⟨nofun, nofun, nofun⟩

/-! What stands at each word of a window. -/

theorem target_element (k : EReg) : target (byteAddr (0x40#19 + k.setWidth 19)) = .element k := by
  revert k
  decide

theorem target_quad (k : BitVec 4) :
    target (byteAddr (0x80#19 + 2#19 * k.setWidth 19)) = .quad k false ∧
    target (byteAddr (0x81#19 + 2#19 * k.setWidth 19)) = .quad k true := by
  revert k
  decide

theorem target_transform : ∀ k < 9,
    target (byteAddr (BitVec.ofNat 19 (0xA0 + 2 * k))) = .transform k false ∧
    target (byteAddr (BitVec.ofNat 19 (0xA1 + 2 * k))) = .transform k true := by
  decide

theorem target_point (k : BitVec 9) :
    target (byteAddr (0x400#19 + 2#19 * k.setWidth 19)) = .point (ptAddr k.toNat) ∧
    target (byteAddr (0x401#19 + 2#19 * k.setWidth 19)) = .point (ptAddr k.toNat + 4) := by
  have low : byteAddr (0x400#19 + 2#19 * k.setWidth 19) = 0x1000 + 8 * k.toNat := by simp [byteAddr]; omega
  have high : byteAddr (0x401#19 + 2#19 * k.setWidth 19) = 0x1000 + 8 * k.toNat + 4 := by simp [byteAddr]; omega
  rw [low, high]
  simp (disch := omega) only [target, ptAddr, if_neg, if_pos, and_self]

theorem target_load (k : BitVec 9) : target (byteAddr (0x800#19 + k.setWidth 19)) = .load k.toNat := by
  have address : byteAddr (0x800#19 + k.setWidth 19) = 0x2000 + 4 * k.toNat := by simp [byteAddr]; omega
  have index : (0x2000 + 4 * k.toNat - 0x2000) / 4 = k.toNat := by omega
  rw [address]
  simp (disch := omega) only [target, if_neg, if_pos, index]

theorem target_poly (k : PReg) {i : Nat} (hi : i < 1024) :
    target (byteAddr (BitVec.ofNat 19 (0x1000 + 0x400 * k.toNat + i))) = .poly k i := by
  have hk : k.toNat < 8 := k.isLt
  have register : (4 * (0x1000 + 0x400 * k.toNat + i) - 0x4000) / 0x1000 = k.toNat := by omega
  have word : 4 * (0x1000 + 0x400 * k.toNat + i) % 0x1000 / 4 = i := by omega
  rw [byteAddr_ofNat (by omega)]
  simp (disch := omega) only [target, if_neg, if_pos, register, word, BitVec.ofNat_toNat, BitVec.setWidth_eq]

theorem target_matrix {y w : Nat} (hy : y < 177) (hw : w < 6) :
    target (byteAddr (BitVec.ofNat 19 (0x3000 + 6 * y + w))) = .matrix y w := by
  have row : (4 * (0x3000 + 6 * y + w) - 0xC000) / 24 = y := by omega
  have word : (4 * (0x3000 + 6 * y + w) - 0xC000) % 24 / 4 = w := by omega
  rw [byteAddr_ofNat (by omega)]
  simp (disch := omega) only [target, if_neg, if_pos, row, word]

theorem target_codeword {w : Nat} (hw : w < 927) : target (byteAddr (BitVec.ofNat 19 (0x4000 + w))) = .codeword (cwAddr (4 * w)) := by
  rw [byteAddr_ofNat (by omega), show 4 * (0x4000 + w) = cwAddr (4 * w) by unfold cwAddr; omega]
  simp (disch := unfold cwAddr; omega) only [target, if_neg, if_pos]

theorem target_pixel {w : Nat} (hw : w < 131072) : target (byteAddr (BitVec.ofNat 19 (0x40000 + w))) = .pixel (pixAddr (4 * w)) := by
  rw [byteAddr_ofNat (by omega), show 4 * (0x40000 + w) = pixAddr (4 * w) by unfold pixAddr; omega]
  simp (disch := unfold pixAddr; omega) only [target, if_neg, if_pos]

/-! ## Accesses while BUSY = 1 (R41) -/

/-- Settles O8: only CTRL stands at word 1, only ID, CTRL and STATUS below word 3, and a CTRL write is `ctrlWritten` or a reset of the block. -/
theorem busyAccesses : Obligations.BusyAccesses := by
  intro s a v out busy
  have ident : target (byteAddr 0#19) = .id := by decide
  have ctrl : target (byteAddr 1#19) = .ctrl := by decide
  have status : target (byteAddr 2#19) = .status := by decide
  have whenIdle : hostWrite 1#19 v { s with busy := false } = writeCtrl v { s with busy := false } :=
    hostWrite_ctrl (s := { s with busy := false }) out v
  refine ⟨fun other => ?dropped, ?_, ?_, ?_, fun above => ?free, fun keep => ?_, fun soft => ?_⟩
  case dropped =>
    have noCtrl : target (byteAddr a) ≠ .ctrl := fun h => other (eq_one_of_target_ctrl h)
    simp [hostWrite, out, busy, noCtrl]
  case free =>
    obtain ⟨noId, noCtrl, noStatus⟩ : target (byteAddr a) ≠ .id ∧ target (byteAddr a) ≠ .ctrl ∧ target (byteAddr a) ≠ .status :=
      target_above_status above
    simp [hostRead, out, busy, noId, noCtrl, noStatus]
  · simp [hostRead, out, ident, readTarget]
  · simp [hostRead, out, ctrl, readTarget]
  · simp [hostRead, out, status, readTarget]
  · rw [hostWrite_ctrl out, whenIdle, writeCtrl_eq_ctrlWritten keep, writeCtrl_eq_ctrlWritten keep]
    simp only [ctrlWritten, busy]
  · rw [hostWrite_ctrl out, whenIdle, writeCtrl_reset soft, writeCtrl_reset soft]
    exact ⟨rfl, rfl⟩

/-! ## Ignored writes and reads without a side effect (R40, R43) -/

/-- What a host write can change something through. -/
def Target.writable : Target → Bool
  | .ctrl | .cmd | .acc | .imgW | .imgH | .element _ | .quad _ _ | .point _ | .load _ | .matrix _ _ | .pixel _ => true
  | _ => false

theorem writeTarget_of_not_writable (v : Word) (s : State) {tgt : Target} (h : tgt.writable = false) :
    writeTarget v s tgt = s := by
  cases tgt with
  | ctrl | cmd | acc | imgW | imgH | element | quad | point | load | matrix | pixel => cases h
  | _ => rfl

theorem hostWritable_of_target {w : Nat} : (target (4 * w)).writable = true → hostWritable w = true := by
  have registers : ∀ k < 0x10, (registerAt k).writable = true → hostWritable k = true := by decide
  apply target_elim (P := fun tgt => tgt.writable = true → hostWritable w = true)
  case register => exact registers w
  all_goals simp only [Target.writable, Bool.false_eq_true, false_implies, implies_true, forall_const, hostWritable_iff]
  all_goals omega

theorem hostRead_of_idle {s : State} (h : s.idle) (a : BitVec 19) :
    hostRead a s = { s with rdata := readTarget s (target (byteAddr a)) } := by
  obtain ⟨out, free⟩ := h
  simp [hostRead, out, free]

/-- No register or window shows the port's own read data. -/
theorem readTarget_rdata (s : State) (v : Word) (tgt : Target) : readTarget { s with rdata := v } tgt = readTarget s tgt := by
  cases tgt <;> rfl

/-- Settles O9: a word that is not writable names nothing that a write changes, and the read data is no state that a read shows. -/
theorem hostAccessRules : Obligations.HostAccessRules := by
  refine ⟨fun s a v idle readOnly => ?ignored, fun s a idle empty => ?zero, fun s a idle => ?frame, fun s a b idle => ?twice⟩
  case ignored =>
    rw [hostWrite_of_idle idle]
    refine writeTarget_of_not_writable v s (Bool.eq_false_iff.mpr fun writable => ?_)
    exact absurd (hostWritable_of_target writable) (by simp [readOnly])
  case zero =>
    rw [hostRead_of_idle idle]
    rcases empty with unmapped | rfl
    · rw [byteAddr, target_of_unmapped unmapped]
      rfl
    · rfl
  case frame => rw [hostRead_of_idle idle]
  case twice =>
    have idle' : (hostRead b s).idle := by rwa [hostRead_of_idle idle]
    rw [hostRead_rdata_of_idle idle', hostRead_rdata_of_idle idle, hostRead_of_idle idle b, readTarget_rdata]

end Sys2Proof.Machine

/-! PROOFS. 20_memory.md: what each window of the host map reads and writes (O15–O20). -/

namespace Sys2Proof.Machine

/-! ## Words and bytes (R42) -/

theorem setWidth_byte (v : Word) : v.setWidth 8 = v.extractLsb' 0 8 := BitVec.setWidth_eq_extractLsb' (by decide)

/-- Byte `b` of four bytes laid out little-endian. -/
theorem extractLsb'_four_bytes (f : Nat → Byte) {b : Nat} (hb : b < 4) :
    (f 3 ++ f 2 ++ f 1 ++ f 0).extractLsb' (8 * b) 8 = f b := by
  have above {n : Nat} {start : Nat} (hi : BitVec n) (lo : Byte) : (hi ++ lo).extractLsb' (start + 8) 8 = hi.extractLsb' start 8 :=
    BitVec.extractLsb'_append_eq_of_le (Nat.le_add_left 8 start)
  match b with
  | 0 => exact BitVec.extractLsb'_append_eq_right
  | 1 => exact (above ..).trans BitVec.extractLsb'_append_eq_right
  | 2 => exact (above ..).trans ((above ..).trans BitVec.extractLsb'_append_eq_right)
  | 3 => exact (above ..).trans ((above ..).trans BitVec.extractLsb'_append_eq_left)

theorem Memory.extractLsb'_readWord (m : Memory) (a : Nat) {b : Nat} (hb : b < 4) :
    (m.readWord a).extractLsb' (8 * b) 8 = m.read (a + b) :=
  extractLsb'_four_bytes (fun k => m.read (a + k)) hb

theorem Memory.readWord_getLsbD (m : Memory) (a : Nat) {b : Nat} (hb : b < 32) :
    (m.readWord a).getLsbD b = (m.read (a + b / 8)).getLsbD (b % 8) := by
  rw [← m.extractLsb'_readWord a (by omega), BitVec.getLsbD_extractLsb', Nat.div_add_mod]
  simp [Nat.mod_lt]

theorem Memory.extractLsb'_readF64 (m : Memory) (a : Nat) :
    (m.readF64 a).extractLsb' 0 32 = m.readWord a ∧ (m.readF64 a).extractLsb' 32 32 = m.readWord (a + 4) :=
  ⟨BitVec.extractLsb'_append_eq_right, BitVec.extractLsb'_append_eq_left⟩

/-- Writing one word of a stored binary64 value keeps the other 32 bits (R164). -/
theorem Memory.readF64_writeWord (m : Memory) (hm : m.wf) (a : Nat) (v : Word) :
    (m.writeWord a v).readF64 a = (m.readF64 a).extractLsb' 32 32 ++ v ∧
    (m.writeWord (a + 4) v).readF64 a = v ++ (m.readF64 a).extractLsb' 0 32 := by
  obtain ⟨low, high⟩ := m.extractLsb'_readF64 a
  rw [low, high, Memory.readF64, Memory.readF64, m.readWord_writeWord hm, m.readWord_writeWord hm,
    m.readWord_writeWord_ne hm a (a + 4) v (by omega), m.readWord_writeWord_ne hm (a + 4) a v (by omega)]
  exact ⟨rfl, rfl⟩

/-- The 32 pixels of a word of PIX (R48). -/
theorem pix_eq_readWord (s : State) (w : Nat) {b : Nat} (hb : b < 32) :
    s.pix (32 * w + b) = (s.mem.readWord (pixAddr (4 * w))).getLsbD b := by
  rw [s.mem.readWord_getLsbD _ hb, State.pix]
  have byte : pixAddr ((32 * w + b) / 8) = pixAddr (4 * w) + b / 8 := by unfold pixAddr; omega
  have bit : (32 * w + b) % 8 = b % 8 := by omega
  rw [byte, bit]

theorem Memory.read_writeWord_of_outside (m : Memory) (hm : m.wf) (a : Nat) (v : Word) {x : Nat} (h : x < a ∨ a + 4 ≤ x) :
    (m.writeWord a v).read x = m.read x :=
  (m.read_writeWord hm a v x).trans (if_neg (by omega))

/-! ## Elements (R44) -/

/-- Settles O15: both accesses are those of `E[k]`. -/
theorem elementWindow : Obligations.ElementWindow := by
  intro s k v idle
  rw [hostRead_rdata_of_idle idle, hostWrite_of_idle idle, target_element, ← setWidth_byte]
  exact ⟨rfl, rfl⟩

/-! ## Binary64 values (R42, R164) -/

/-- Settles O16: an access to Q or T is to a half of the register, and one to PT to a word of its eight bytes. -/
theorem doubleHalves : Obligations.DoubleHalves := by
  refine ⟨fun s k lo hi idle => ?quad, fun s k lo hi idle canonical => ?point, fun s k idle hk => ?transform⟩
  case quad =>
    obtain ⟨low, high⟩ := target_quad k
    rw [hostWrite_of_idle idle, hostWrite_of_idle idle, hostRead_rdata_of_idle idle, hostRead_rdata_of_idle idle, low, high]
    exact ⟨rfl, rfl, rfl, rfl⟩
  case point =>
    obtain ⟨low, high⟩ := target_point k
    obtain ⟨readLow, readHigh⟩ := s.mem.extractLsb'_readF64 (ptAddr k.toNat)
    rw [hostWrite_of_idle idle, hostWrite_of_idle idle, hostRead_rdata_of_idle idle, hostRead_rdata_of_idle idle, low, high]
    refine ⟨_, _, rfl, rfl, (s.mem.readF64_writeWord canonical _ lo).1, rfl, rfl, (s.mem.readF64_writeWord canonical _ hi).2,
      fun a outside => ⟨?_, ?_⟩, readLow.symm, readHigh.symm⟩
    · exact s.mem.read_writeWord_of_outside canonical _ lo (by omega)
    · exact s.mem.read_writeWord_of_outside canonical _ hi (by omega)
  case transform =>
    obtain ⟨low, high⟩ := target_transform k hk
    rw [hostRead_rdata_of_idle idle, hostRead_rdata_of_idle idle, low, high]
    exact ⟨rfl, rfl⟩

/-! ## Bytes and pixels (R23, R48) -/

/-- Settles O17: LB[k] is one byte of storage, and a word of PIX is the word of storage at its address. -/
theorem byteAndPixelWindows : Obligations.ByteAndPixelWindows := by
  refine ⟨fun s k v idle canonical => ?load, fun s w v idle canonical hw => ?pixel⟩
  case load =>
    rw [hostRead_rdata_of_idle idle, hostWrite_of_idle idle, target_load, ← setWidth_byte]
    refine ⟨rfl, _, rfl, rfl, ?_, fun a other => ?_⟩
    · exact (s.mem.read_write canonical _ _ _).trans (if_pos rfl)
    · exact (s.mem.read_write canonical _ _ _).trans (if_neg other)
  case pixel =>
    rw [hostRead_rdata_of_idle idle, hostWrite_of_idle idle, target_pixel hw]
    refine ⟨fun b hb => (pix_eq_readWord s w hb).symm, _, rfl, rfl, fun b hb => ?_, fun a outside => ?_⟩
    · rw [pix_eq_readWord _ w hb]
      exact congrArg (·.getLsbD b) (s.mem.readWord_writeWord canonical _ v)
    · exact s.mem.read_writeWord_of_outside canonical _ v outside

/-! ## Polynomials (R45) -/

/-- Settles O18: a word past the list's end reads 0, as does one past PMAX. -/
theorem polynomialWindow : Obligations.PolynomialWindow := by
  intro s k i v idle hi
  rw [hostRead_rdata_of_idle idle, hostWrite_of_idle idle, target_poly k hi]
  refine ⟨?_, rfl⟩
  simp only [readTarget, polyWindow, State.valueP]
  by_cases coefficient : i - 1 < (s.p[k.toNat]'k.isLt).length
  · simp only [coefficient, and_true]
  · have past : (s.p[k.toNat]'k.isLt).getD (i - 1) 0#8 = 0#8 := List.getD_eq_default _ _ (by omega)
    simp only [coefficient, and_false, past, BitVec.setWidth_zero, ite_self]

/-! ## Modules (R46) -/

theorem rowWithWord_getLsbD (row : BitVec 177) (w : Nat) (v : Word) {x : Nat} (hx : x < 177) :
    (rowWithWord row w v).getLsbD x = if x / 32 = w then v.getLsbD (x % 32) else row.getLsbD x := by
  have ones (i : Nat) : (0xFFFFFFFF#177).getLsbD i = decide (i < 32) := by
    rw [show 0xFFFFFFFF#177 = (BitVec.allOnes 32).setWidth 177 by decide, BitVec.getLsbD_setWidth, BitVec.getLsbD_allOnes]
    simp; omega
  simp only [rowWithWord, BitVec.getLsbD_or, BitVec.getLsbD_and, BitVec.getLsbD_not, BitVec.getLsbD_shiftLeft, BitVec.getLsbD_setWidth, ones]
  by_cases inside : x / 32 = w
  · have index : x - 32 * w = x % 32 := by omega
    have low : ¬ x < 32 * w := by omega
    have bit : x % 32 < 32 := Nat.mod_lt _ (by decide)
    have short : x % 32 < 177 := by omega
    simp [inside, hx, index, low, bit, short]
  · by_cases before : x < 32 * w
    · simp [inside, hx, before]
    · have past : ¬ x - 32 * w < 32 := by omega
      simp [inside, hx, before, past, BitVec.getLsbD_of_ge v _ (not_lt.mp past)]

/-- Settles O19: bit b of the word is module 32·w + b of the row, on reading and on writing. -/
theorem matrixWindow : Obligations.MatrixWindow := by
  intro s y w v idle hy hw
  rw [hostWrite_of_idle idle, target_matrix hy hw]
  refine ⟨fun b hb => ?read, _, rfl, rfl, fun x y' hx hy' => ?written⟩
  case read =>
    rw [hostRead_rdata_of_idle idle, target_matrix hy hw, readTarget, BitVec.getLsbD_setWidth, BitVec.getLsbD_ushiftRight, BitMatrix.row_getLsbD]
    simp [hb, BitMatrix.get]
  case written =>
    show (s.bm.withRow y _).get x y' = _
    rw [BitMatrix.get_withRow _ _ _ _ _ hy', rowWithWord_getLsbD _ _ _ hx, BitMatrix.row_getLsbD]
    by_cases row : y' = y
    · simp only [row, if_true, true_and]
    · simp only [row, if_false, false_and]

/-! ## Codewords (R47) -/

/-- Settles O20: lane b of the word is the visible byte 4·w + b. -/
theorem codewordWindow : Obligations.CodewordWindow := by
  intro s w v idle hw
  rw [hostRead_rdata_of_idle idle, hostWrite_of_idle idle, target_codeword hw]
  refine ⟨fun b hb => ?_, rfl⟩
  have start : cwAddr (4 * w) - 0x10000 = 4 * w := Nat.add_sub_cancel_left ..
  simp only [readTarget, start]
  exact extractLsb'_four_bytes (fun k => s.cwVisible (4 * w + k)) hb

end Sys2Proof.Machine

/-! PROOFS. 44_sampler.md: what sampling reads of PIX (O49). -/

namespace Sys2Proof.Machine

/-! ## The samples of an image (R112) -/

/-- A pixel inside the image is one of PIX[0 .. IMG_W·IMG_H − 1] (R49). -/
theorem pixel_index_lt {w h x y : Nat} (hx : x < w) (hy : y < h) : x + w * y < w * h :=
  calc x + w * y < w + w * y := Nat.add_lt_add_right hx _
    _ = w * (y + 1) := by rw [Nat.mul_succ, Nat.add_comm]
    _ ≤ w * h := Nat.mul_le_mul_left w hy

section
variable {s : State} {m : Memory}

/-- The storage `m` holds the same image as the storage of `s` (R49). -/
def SameImage (s : State) (m : Memory) : Prop :=
  ∀ k < s.imgW.toNat * s.imgH.toNat, ({ s with mem := m } : State).pix k = s.pix k

theorem SameImage.samplePixel (same : SameImage s m) (y x : Nat) (pt : Point) :
    samplePixel { s with mem := m } y x pt = samplePixel s y x pt := by
  simp only [Machine.samplePixel]
  split
  · rfl
  · rename_i inside
    simp only [Bool.or_eq_true, decide_eq_true_eq] at inside
    exact congrArg Except.ok (same _ (pixel_index_lt (by omega) (by omega)))

theorem SameImage.sampleRow (same : SameImage s m) (y x : Nat) (pts : List Point) :
    sampleRow { s with mem := m } y x pts = sampleRow s y x pts := by
  induction pts generalizing x with
  | nil => rfl
  | cons pt pts ih => rw [Machine.sampleRow, Machine.sampleRow, same.samplePixel, ih]

theorem SameImage.gridRow (same : SameImage s m) (t : Transform) (dim y : Nat) :
    gridRow { s with mem := m } t dim y = gridRow s t dim y := by
  simp only [Machine.gridRow, same.sampleRow]

theorem SameImage.gridRows (same : SameImage s m) (t : Transform) (dim n y : Nat) :
    gridRows { s with mem := m } t dim n y = gridRows s t dim n y := by
  induction n generalizing y with
  | zero => rfl
  | succ n ih => rw [Machine.gridRows, Machine.gridRows, same.gridRow, ih]

theorem SameImage.sample (same : SameImage s m) (t : Transform) (dim : Nat) :
    sample { s with mem := m } t dim = sample s t dim := by
  simp only [Machine.sample, same.gridRows]

end

/-! ## The commands (R115, R116) -/

/-- Other storage under a result: the same error, or the same state with that storage. -/
def onStorage (m : Memory) (r : Except CmdError State) : Except CmdError State := do
  let u ← r
  return { u with mem := m }

theorem bind_eq_onStorage {α : Type} {m : Memory} {r r' : Except CmdError α} {f f' : α → Except CmdError State}
    (hr : r' = r) (hf : ∀ a, f' a = onStorage m (f a)) : (r' >>= f') = onStorage m (r >>= f) := by
  rw [hr, funext hf]
  exact (bind_assoc ..).symm

theorem finish_onStorage {s t : State} {m : Memory} {r r' : Except CmdError State} (hr : r' = onStorage m r)
    (h : finish s r = .next t) : finish { s with mem := m } r' = .next { t with mem := m } := by
  rcases finish_next s r t h with ⟨u, rfl, rfl⟩ | ⟨x, rfl, rfl⟩
  · exact hr ▸ rfl
  · exact hr ▸ rfl

/-- Settles O49: both commands are checks and a build that read no storage, then `sample`, which reads the image alone. -/
theorem samplingReadsOnlyTheImage : Obligations.SamplingReadsOnlyTheImage := by
  intro s t m dim image
  have same : SameImage s m := image
  refine ⟨finish_onStorage ?grid, finish_onStorage ?quad⟩
  case grid =>
    exact bind_eq_onStorage rfl fun _ => bind_eq_onStorage rfl fun _ => bind_eq_onStorage rfl fun _ =>
      bind_eq_onStorage (same.sample ..) fun _ => rfl
  case quad =>
    exact bind_eq_onStorage rfl fun _ => bind_eq_onStorage rfl fun _ => bind_eq_onStorage rfl fun _ =>
      bind_eq_onStorage (same.sample ..) fun _ => rfl

end Sys2Proof.Machine

/-! PROOFS. 30_encoding.md: decoder and encoder agree with each other (O1, O2, O4) and with `match` and `mask` of the opcode map (O3); what a step does with a word that is a command (O6) and with one that is none (O5). The chain is: a word that a row selects is the word of the row's command with the operands that stand in it (`encode_rowCommand`), the decoder answers the command of a row that selects the word (`decode_readFrom`), and every command's word decodes to it (`decode_encode`). -/

namespace Sys2Proof
open Machine (opcodeRow)

/-! ## The fields of a word (R56) -/

theorem toNat_append_eq_add {m n : Nat} (x : BitVec m) (y : BitVec n) : (x ++ y).toNat = x.toNat * 2 ^ n + y.toNat := by
  rw [BitVec.toNat_append, ← Nat.shiftLeft_add_eq_or_of_lt y.isLt, Nat.shiftLeft_eq]

theorem toNat_extractLsb'_eq_div {n : Nat} (x : BitVec n) (k l : Nat) : (x.extractLsb' k l).toNat = x.toNat / 2 ^ k % 2 ^ l := by
  rw [BitVec.extractLsb'_toNat, Nat.shiftRight_eq_div_pow]

theorem toNat_formR (op : BitVec 8) (d a b : BitVec 4) (imm : BitVec 12) : (formR op d a b imm).toNat =
    op.toNat * 2 ^ 24 + d.toNat * 2 ^ 20 + a.toNat * 2 ^ 16 + b.toNat * 2 ^ 12 + imm.toNat := by
  simp only [formR, toNat_append_eq_add]
  omega

theorem toNat_formX (op : BitVec 8) (x y : Byte) : (formX op x y).toNat = op.toNat * 2 ^ 24 + x.toNat * 2 ^ 8 + y.toNat := by
  simp only [formX, toNat_append_eq_add, BitVec.toNat_ofNat]
  omega

@[simp] theorem fields_formR (op : BitVec 8) (d a b : BitVec 4) (imm : BitVec 12) :
    dField (formR op d a b imm) = d ∧ aField (formR op d a b imm) = a ∧ bField (formR op d a b imm) = b ∧
      immField (formR op d a b imm) = imm := by
  simp only [← BitVec.toNat_inj, dField, aField, bField, immField, toNat_extractLsb'_eq_div, toNat_formR]
  omega

@[simp] theorem fields_formX (op : BitVec 8) (x y : Byte) :
    zField (formX op x y) = 0#8 ∧ xField (formX op x y) = x ∧ yField (formX op x y) = y := by
  simp only [← BitVec.toNat_inj, zField, xField, yField, toNat_extractLsb'_eq_div, toNat_formX, BitVec.toNat_ofNat]
  omega

/-- A word's fields are all of it. -/
theorem formR_fields (w : Word) : formR (opField w) (dField w) (aField w) (bField w) (immField w) = w := by
  simp only [← BitVec.toNat_inj, opField, dField, aField, bField, immField, toNat_extractLsb'_eq_div, toNat_formR]
  omega

theorem formX_fields {w : Word} (z : zField w = 0#8) : formX (opField w) (xField w) (yField w) = w := by
  simp only [← BitVec.toNat_inj, zField, toNat_extractLsb'_eq_div, BitVec.toNat_ofNat] at z
  simp only [← BitVec.toNat_inj, opField, xField, yField, toNat_extractLsb'_eq_div, toNat_formX]
  omega

/-- Z of format X is D and A of format R. -/
theorem zField_eq_zero_iff {w : Word} : zField w = 0#8 ↔ dField w = 0#4 ∧ aField w = 0#4 := by
  simp only [← BitVec.toNat_inj, zField, dField, aField, toNat_extractLsb'_eq_div, BitVec.toNat_ofNat]
  omega

theorem opField_eq_ofNat {w : Word} {n : Nat} (h : (opField w).toNat = n) : opField w = BitVec.ofNat 8 n := by
  rw [← h, BitVec.ofNat_toNat, BitVec.setWidth_eq]

/-- The fields of a word written as a number, as `match` and `mask` are. -/
@[simp] theorem fields_ofNat (n : Nat) :
    opField (BitVec.ofNat 32 n) = BitVec.ofNat 8 (n / 2 ^ 24) ∧ dField (BitVec.ofNat 32 n) = BitVec.ofNat 4 (n / 2 ^ 20) ∧
      aField (BitVec.ofNat 32 n) = BitVec.ofNat 4 (n / 2 ^ 16) ∧ bField (BitVec.ofNat 32 n) = BitVec.ofNat 4 (n / 2 ^ 12) ∧
      immField (BitVec.ofNat 32 n) = BitVec.ofNat 12 n := by
  simp only [← BitVec.toNat_inj, opField, dField, aField, bField, immField, toNat_extractLsb'_eq_div, BitVec.toNat_ofNat]
  omega

/-- A mask works field by field. -/
theorem and_eq_iff_fields {w mask v : Word} : w &&& mask = v ↔
    opField w &&& opField mask = opField v ∧ dField w &&& dField mask = dField v ∧ aField w &&& aField mask = aField v ∧
      bField w &&& bField mask = bField v ∧ immField w &&& immField mask = immField v := by
  simp only [opField, dField, aField, bField, immField, ← BitVec.extractLsb'_and]
  constructor
  · rintro rfl
    exact ⟨rfl, rfl, rfl, rfl, rfl⟩
  · rintro ⟨op, d, a, b, imm⟩
    rw [← formR_fields (w &&& mask), ← formR_fields v]
    simp only [opField, dField, aField, bField, immField, op, d, a, b, imm]

/-! ## Fields with reserved bits (R58, R59) -/

/-- A field is below 2ᵏ when its bits from k on are 0, as a mask sees them. -/
theorem and_high_eq_zero_iff {n : Nat} (x : BitVec n) (k : Nat) : x &&& BitVec.allOnes n <<< k = 0#n ↔ x.toNat < 2 ^ k := by
  constructor
  · intro zero
    apply Nat.lt_pow_two_of_testBit
    intro j high
    change x.getLsbD j = false
    by_cases inside : j < n
    · have bit : (x &&& BitVec.allOnes n <<< k).getLsbD j = false := zero ▸ BitVec.getLsbD_zero
      rw [BitVec.getLsbD_and, BitVec.getLsbD_shiftLeft, BitVec.getLsbD_allOnes] at bit
      simpa only [inside, Nat.not_lt.2 high, Nat.sub_lt_of_lt inside, decide_true, decide_false, Bool.not_false,
        Bool.and_true] using bit
    · exact BitVec.getLsbD_of_ge _ _ (Nat.not_lt.1 inside)
  · intro small
    apply BitVec.eq_of_getLsbD_eq
    intro j _
    by_cases low : j < k
    · simp [low]
    · have bit : x.getLsbD j = false := Nat.testBit_lt_two_pow (small.trans_le (Nat.pow_le_pow_right (by omega) (by omega)))
      simp [bit]

/-- A field is below 2ᵏ when its bits from k on are 0, as the decoder takes them out. -/
theorem extractLsb'_high_eq_zero_iff {n k l : Nat} (x : BitVec n) (top : n ≤ k + l) :
    x.extractLsb' k l = 0#l ↔ x.toNat < 2 ^ k := by
  have bound : x.toNat / 2 ^ k < 2 ^ l :=
    Nat.div_lt_of_lt_mul (by rw [← Nat.pow_add]; exact x.isLt.trans_le (Nat.pow_le_pow_right (by omega) top))
  rw [← BitVec.toNat_inj, toNat_extractLsb'_eq_div, Nat.mod_eq_of_lt bound, BitVec.toNat_ofNat, Nat.zero_mod,
    Nat.div_eq_zero_iff_lt (Nat.two_pow_pos k)]

theorem setWidth_extractLsb'_low {n k : Nat} {x : BitVec n} (small : x.toNat < 2 ^ k) : (x.extractLsb' 0 k).setWidth n = x := by
  rw [← BitVec.toNat_inj, BitVec.toNat_setWidth, toNat_extractLsb'_eq_div, Nat.pow_zero, Nat.div_one,
    Nat.mod_eq_of_lt small, Nat.mod_eq_of_lt x.isLt]

theorem extractLsb'_setWidth_low {n m : Nat} (x : BitVec n) (fits : n ≤ m) : (x.setWidth m).extractLsb' 0 n = x := by
  rw [← BitVec.toNat_inj, toNat_extractLsb'_eq_div, BitVec.toNat_setWidth_of_le fits, Nat.pow_zero, Nat.div_one,
    Nat.mod_eq_of_lt x.isLt]

theorem extractLsb'_setWidth_high {n m k l : Nat} (x : BitVec n) (above : n ≤ k) : (x.setWidth m).extractLsb' k l = 0#l := by
  have small : x.toNat % 2 ^ m < 2 ^ k :=
    (Nat.mod_le _ _).trans_lt (x.isLt.trans_le (Nat.pow_le_pow_right (by omega) above))
  rw [← BitVec.toNat_inj, toNat_extractLsb'_eq_div, BitVec.toNat_setWidth, Nat.div_eq_of_lt small]
  simp

@[simp] theorem and_fullOp (f : BitVec 8) : f &&& 0xFF#8 = f := BitVec.and_allOnes
@[simp] theorem and_fullReg (f : BitVec 4) : f &&& 0xF#4 = f := BitVec.and_allOnes
@[simp] theorem and_fullImm (f : BitVec 12) : f &&& 0xFFF#12 = f := BitVec.and_allOnes
@[simp] theorem and_polyReg_eq_zero_iff (f : BitVec 4) : f &&& 0x8#4 = 0#4 ↔ f.toNat < 2 ^ 3 := and_high_eq_zero_iff f 3
@[simp] theorem and_byteImm_eq_zero_iff (imm : BitVec 12) : imm &&& 0xF00#12 = 0#12 ↔ imm.toNat < 2 ^ 8 := and_high_eq_zero_iff imm 8
@[simp] theorem and_low3Imm_eq_zero_iff (imm : BitVec 12) : imm &&& 0xFF8#12 = 0#12 ↔ imm.toNat < 2 ^ 3 := and_high_eq_zero_iff imm 3

@[simp] theorem mustBeZero_zero (n : Nat) : mustBeZero 0#n = .ok () := if_pos rfl

/-! P-register numbers in a field, and in IMM, where P.DIV has its second result (R57, R58). -/

@[simp] theorem polyRegister_polyField (p : PReg) : polyRegister (polyField p) = .ok p := by
  revert p
  decide

theorem polyRegister_of_lt {f : BitVec 4} : f.toNat < 2 ^ 3 → polyRegister f = .ok (f.setWidth 3) := by
  revert f
  decide

theorem polyRegister_of_ge {f : BitVec 4} : ¬ f.toNat < 2 ^ 3 → polyRegister f = .error .noSuchPolyRegister := by
  revert f
  decide

theorem polyField_setWidth {f : BitVec 4} : f.toNat < 2 ^ 3 → polyField (f.setWidth 3) = f := by
  revert f
  decide

theorem immRegister_setWidth (r : PReg) : (r.setWidth 12).extractLsb' 0 4 = polyField r := by
  revert r
  decide

theorem toNat_immRegister_lt_iff {imm : BitVec 12} (small : imm.toNat < 2 ^ 4) :
    (imm.extractLsb' 0 4).toNat < 2 ^ 3 ↔ imm.toNat < 2 ^ 3 := by
  rw [toNat_extractLsb'_eq_div, Nat.pow_zero, Nat.div_one, Nat.mod_eq_of_lt small]

theorem setWidth_immRegister {imm : BitVec 12} (small : imm.toNat < 2 ^ 3) :
    ((imm.extractLsb' 0 4).setWidth 3).setWidth 12 = imm := by
  simp only [← BitVec.toNat_inj, BitVec.toNat_setWidth, toNat_extractLsb'_eq_div]
  omega

/-! ## Rows of the opcode map (R58) -/

/-- Row `j` of the opcode map selects `w`. -/
abbrev Selects (j : Instr) (w : Word) : Prop := w &&& (opcodeRow j).2 = (opcodeRow j).1

/-- Row `j`'s command with the operands that stand in `w`. -/
def rowCommand (j : Instr) (w : Word) : Instr :=
  let d := dField w
  let a := aField w
  let b := bField w
  let imm := immField w
  match j with
  | .nop => .nop
  | .gfLi _ _ => .gfLi d (imm.extractLsb' 0 8)
  | .gfAdd _ _ _ => .gfAdd d a b
  | .gfMul _ _ _ => .gfMul d a b
  | .gfInv _ _ => .gfInv d a
  | .pZero _ => .pZero (d.setWidth 3)
  | .pOne _ => .pOne (d.setWidth 3)
  | .pMono _ _ _ => .pMono (d.setWidth 3) a imm
  | .pLd _ _ => .pLd (d.setWidth 3) imm
  | .pDeg _ => .pDeg (a.setWidth 3)
  | .pIsz _ => .pIsz (a.setWidth 3)
  | .pCoef _ _ _ => .pCoef d (a.setWidth 3) imm
  | .pEval _ _ _ => .pEval d (a.setWidth 3) b
  | .pAdd _ _ _ => .pAdd (d.setWidth 3) (a.setWidth 3) (b.setWidth 3)
  | .pMul _ _ _ => .pMul (d.setWidth 3) (a.setWidth 3) (b.setWidth 3)
  | .pMuls _ _ _ => .pMuls (d.setWidth 3) (a.setWidth 3) b
  | .pMulm _ _ _ _ => .pMulm (d.setWidth 3) (a.setWidth 3) b imm
  | .pDiv _ _ _ _ => .pDiv (d.setWidth 3) ((imm.extractLsb' 0 4).setWidth 3) (a.setWidth 3) (b.setWidth 3)
  | .tQq => .tQq
  | .tMap _ => .tMap imm
  | .sNudge _ => .sNudge imm
  | .sGrid _ => .sGrid imm
  | .sQuad _ => .sQuad imm
  | .mInit _ => .mInit imm
  | .mSet _ _ => .mSet (xField w) (yField w)
  | .mGet _ _ => .mGet (xField w) (yField w)
  | .dNew => .dNew
  | .dRdbit _ _ => .dRdbit (xField w) (yField w)
  | .dFmt => .dFmt
  | .dVer => .dVer
  | .dUnmask _ => .dUnmask (imm.extractLsb' 0 3)
  | .dCw => .dCw

theorem opcodeRow_rowCommand (j : Instr) (w : Word) : opcodeRow (rowCommand j w) = opcodeRow j := by
  cases j <;> rfl

theorem selects_pDiv_iff {q r a b : PReg} {w : Word} : Selects (.pDiv q r a b) w ↔
    opField w = 0x2C#8 ∧ (dField w).toNat < 2 ^ 3 ∧ (aField w).toNat < 2 ^ 3 ∧ (bField w).toNat < 2 ^ 3 ∧
      (immField w).toNat < 2 ^ 3 := by
  simp [Selects, opcodeRow, and_eq_iff_fields]

/-- The words a row selects are words of its command: what the mask leaves free are the operands. -/
theorem encode_rowCommand {j : Instr} {w : Word} (selected : Selects j w) : encode (rowCommand j w) = w := by
  rw [Selects, and_eq_iff_fields] at selected
  cases j
  all_goals
    simp only [opcodeRow, fields_ofNat, Nat.reducePow, Nat.reduceDiv, Nat.zero_div, BitVec.reduceOfNat, BitVec.and_zero,
      and_fullOp, and_fullReg, and_fullImm, and_polyReg_eq_zero_iff, and_byteImm_eq_zero_iff, and_low3Imm_eq_zero_iff,
      true_and, and_true] at selected
  case mSet | mGet | dRdbit =>
    obtain ⟨op, z⟩ := selected
    rw [← formX_fields (zField_eq_zero_iff.2 z), op]
    simp [rowCommand, encode]
  all_goals
    conv_rhs => rw [← formR_fields w]
    simp [rowCommand, encode, selected, polyField_setWidth, setWidth_extractLsb'_low, setWidth_immRegister]

theorem rowCommand_wellFormed {j : Instr} {w : Word} (selected : Selects j w)
    (different : opField w = 0x2C#8 → dField w ≠ (immField w).extractLsb' 0 4) : (rowCommand j w).wellFormed = true := by
  cases j
  case pDiv =>
    obtain ⟨op, d, -, -, imm⟩ := selects_pDiv_iff.1 selected
    refine bne_iff_ne.2 fun same => different op ?_
    rw [← polyField_setWidth d, same, polyField_setWidth ((toNat_immRegister_lt_iff (by omega)).2 imm)]
  all_goals rfl

/-! ## What the decoder answers (R58, R59) -/

/-- `P` holds of the command that a decoding gives, where it gives one. -/
def Gives (P : Instr → Prop) (r : Except DecodeError Instr) : Prop := ∀ i, r = .ok i → P i

section
variable {P : Instr → Prop}

theorem gives_pure (i : Instr) : Gives P (pure i) ↔ P i :=
  ⟨fun h => h i rfl, fun h _ given => Except.ok.inj given ▸ h⟩

theorem gives_error (x : DecodeError) : Gives P (.error x) := fun _ given => nomatch given

theorem gives_mustBeZero {n : Nat} (f : BitVec n) (k : Unit → Except DecodeError Instr) :
    Gives P (mustBeZero f >>= k) ↔ (f = 0#n → Gives P (k ())) := by
  unfold mustBeZero
  split
  · next zero => exact ⟨fun h _ => h, fun h => h zero⟩
  · next nonzero => exact ⟨fun _ zero => absurd zero nonzero, fun _ => gives_error _⟩

theorem gives_polyRegister (f : BitVec 4) (k : PReg → Except DecodeError Instr) :
    Gives P (polyRegister f >>= k) ↔ (f.toNat < 2 ^ 3 → Gives P (k (f.setWidth 3))) := by
  by_cases small : f.toNat < 2 ^ 3
  · rw [polyRegister_of_lt small]
    exact ⟨fun h _ => h, fun h => h small⟩
  · rw [polyRegister_of_ge small]
    exact ⟨fun _ is => absurd is small, fun _ => gives_error _⟩

end

theorem error_of_gives_false {r : Except DecodeError Instr} (h : Gives (fun _ => False) r) : ∃ x, r = .error x := by
  cases r with
  | ok i => exact (h i rfl).elim
  | error x => exact ⟨x, rfl⟩

/-- `i` is a command whose row selects `w`, with the operands that stand in `w`. -/
structure ReadFrom (w : Word) (i : Instr) : Prop where
  selects : Selects i w
  operands : rowCommand i w = i
  wellFormed : i.wellFormed = true

/-- The decoder's checks on the fields are the mask of the row whose OP the word has. -/
theorem decode_readFrom (w : Word) : Gives (ReadFrom w) (decode w) := by
  unfold decode
  split
  case h_33 => exact gives_error _ -- no row has this OP
  all_goals
    rename_i op
    replace op := opField_eq_ofNat op
    simp only [gives_mustBeZero, gives_polyRegister, gives_pure]
    intros
  -- P.DIV, whose two results are compared after the registers are checked
  case h_18 reserved d r a b =>
    split
    · exact gives_error _
    · next different =>
      have imm := (toNat_immRegister_lt_iff ((extractLsb'_high_eq_zero_iff _ (by omega)).1 reserved)).1 r
      exact (gives_pure _).2 ⟨selects_pDiv_iff.2 ⟨op, d, a, b, imm⟩, rfl, bne_iff_ne.2 different⟩
  all_goals
    refine ⟨?_, rfl, rfl⟩
    simp_all [Selects, opcodeRow, and_eq_iff_fields, extractLsb'_high_eq_zero_iff, zField_eq_zero_iff]

/-- R59, cases 1 to 3. -/
theorem decode_error_of_no_row {w : Word} (none : ∀ j, ¬ Selects j w) : ∃ x, decode w = .error x :=
  error_of_gives_false fun i given => none i (decode_readFrom w i given).selects

/-- R59, case 4. -/
theorem decode_error_of_one_result {w : Word} (op : opField w = 0x2C#8) (same : dField w = (immField w).extractLsb' 0 4) :
    ∃ x, decode w = .error x := by
  apply error_of_gives_false
  simp only [decode, op, same, BitVec.reduceToNat, gives_mustBeZero, gives_polyRegister, if_true]
  intros
  exact gives_error _

/-! ## Encode, then decode (R55–R58) -/

/-- Each field of the word is the operand that was written to it, or 0 where the row reserves it. -/
theorem decode_encode (i : Instr) (wf : i.wellFormed = true) : decode (encode i) = .ok i := by
  cases i with
  | pDiv q r a b =>
    have different : q ≠ r := bne_iff_ne.1 wf
    simp [encode, decode, extractLsb'_setWidth_high, immRegister_setWidth, different, bind, Except.bind]
  | _ =>
    simp [encode, decode, extractLsb'_setWidth_low, extractLsb'_setWidth_high, bind, Except.bind, pure, Except.pure]

theorem decode_of_encode_eq {i : Instr} {w : Word} (word : encode i = w) (wf : i.wellFormed = true) : decode w = .ok i :=
  word ▸ decode_encode i wf

end Sys2Proof

namespace Sys2Proof.Machine

/-! ## The opcode map and the decoder -/

/-- Settles O1. -/
theorem encodeThenDecode : Obligations.EncodeThenDecode := decode_encode

/-- Settles O2: the decoded command is its row's with the word's own operands, so its word is that word. -/
theorem decodeThenEncode : Obligations.DecodeThenEncode := by
  intro w i given
  have read := decode_readFrom w i given
  exact ⟨read.operands ▸ encode_rowCommand read.selects, read.wellFormed⟩

/-- Settles O3. -/
theorem legalWordsFollowOpcodeMap : Obligations.LegalWordsFollowOpcodeMap := by
  intro w
  refine ⟨fun i given => (decode_readFrom w i given).selects, fun j selected different => ?_,
    decode_error_of_no_row, decode_error_of_one_result⟩
  exact ⟨rowCommand j w, decode_of_encode_eq (encode_rowCommand selected) (rowCommand_wellFormed selected different),
    opcodeRow_rowCommand j w⟩

/-- Settles O4: each is the word of its command. -/
theorem specWordsDecode : Obligations.SpecWordsDecode := by
  refine ⟨?_, ?_, ?_, ?_, ?_, ?_, ?_, ?_, ?_, ?_, ?_, ?_, ?_, ?_⟩ <;> exact decode_of_encode_eq (by decide) rfl

/-! ## The step on a latched word (R54, R59) -/

theorem step_of_no_inputs {s : State} (none : s.inputs = []) : step s = blockStep s := by
  rw [step, stepBy, none]

theorem blockStep_of_decode {s : State} {i : Instr} (rst : s.rst = false) (busy : s.busy = true)
    (word : decode s.cmdLatch = .ok i) : blockStep s = exec i s := by
  simp [blockStep, blockStepBy, fetchWord, rst, busy, word]

theorem blockStep_of_illegal {s : State} {x : DecodeError} (rst : s.rst = false) (busy : s.busy = true)
    (word : decode s.cmdLatch = .error x) : blockStep s = .next (s.failed 0x08#8 0#32 0#32) := by
  have run : blockStep s = execIllegal s := by simp [blockStep, blockStepBy, fetchWord, rst, busy, word]
  exact run.trans rfl

theorem blockStep_of_not_busy {s : State} (idle : s.busy = false ∨ s.rst = true) : blockStep s = .next s := by
  rcases idle with h | h <;> simp [blockStep, blockStepBy, h]

/-- Settles O5. -/
theorem illegalWordsRaise : Obligations.IllegalWordsRaise := by
  intro s none rst busy illegal
  obtain ⟨x, word⟩ : ∃ x, decode s.cmdLatch = .error x := by
    rcases illegal with noRow | ⟨op, same⟩
    · exact decode_error_of_no_row noRow
    · exact decode_error_of_one_result op same
  exact (step_of_no_inputs none).trans (blockStep_of_illegal rst busy word)

/-- Settles O6. -/
theorem stepRunsTheCommand : Obligations.StepRunsTheCommand := by
  refine ⟨?command, ?turn, ?idle, ?read, ?write, ?reset⟩
  case command =>
    intro s i none rst busy word
    exact (step_of_no_inputs none).trans (blockStep_of_decode rst busy word)
  case turn =>
    intro s i rest first rst busy word
    rw [step, stepBy, first]
    exact blockStep_of_decode (s := { s with inputs := rest }) rst busy word
  case idle =>
    intro s none idle
    exact (step_of_no_inputs none).trans (blockStep_of_not_busy idle)
  case read => intro s a rest first; rw [step, stepBy, first]
  case write => intro s a v rest first; rw [step, stepBy, first]
  case reset => intro s level rest first; rw [step, stepBy, first]

end Sys2Proof.Machine

/-! PROOFS. 40_control.md and 41_field.md: what NOP and the field commands complete with (O29). The lemmas before it run a command check by check, in `finish`, on operands that pass. -/

namespace Sys2Proof.Machine

/-! ## Running a command whose checks pass (R16, R144) -/

section
variable {s : State}

theorem readE_of_valid {r : EReg} (valid : s.validE r) : readE s r = .ok (s.valueE r) := if_pos valid

/-- A valid element operand: the command goes on with its value. -/
theorem finish_readE {r : EReg} (valid : s.validE r) (rest : Byte → Except CmdError State) :
    finish s (readE s r >>= rest) = finish s (rest (s.valueE r)) := by
  rw [readE_of_valid valid]; rfl

/-- A check that finds nothing: the command goes on. -/
theorem finish_failIf {bad : Bool} (passes : bad = false) (x : CmdError) (rest : Unit → Except CmdError State) :
    finish s (failIf bad x >>= rest) = finish s (rest ()) := by
  rw [passes]; rfl

theorem finish_writeE (d : EReg) (v : Byte) : finish s (.ok (writeE s d v)) = .next (s.wroteE d v) := rfl

end

/-! ## NOP and the field commands (R64, R73–R76) -/

/-- Settles O29: each command reads its operands in `s`, and its one write to `s` comes after the last of them. -/
theorem controlAndFieldResults : Obligations.ControlAndFieldResults := by
  intro s d a b imm
  refine ⟨?nop, ?loadImmediate, ?sum, ?product, ?inverse⟩
  case nop => exact finish_ok s s
  case loadImmediate => exact finish_writeE d imm
  case sum =>
    intro validA validB
    exact (finish_readE validA _).trans ((finish_readE validB _).trans (finish_writeE d _))
  case product =>
    intro validA validB
    exact (finish_readE validA _).trans ((finish_readE validB _).trans (finish_writeE d _))
  case inverse =>
    intro validA nonzero
    have passes : (s.valueE a == 0#8) = false := beq_eq_false_iff_ne.2 nonzero
    exact (finish_readE validA _).trans ((finish_failIf passes _ _).trans (finish_writeE d _))

end Sys2Proof.Machine

/-! PROOFS. 41_field.md, 42_polynomial.md and 60_exceptions.md R148: what the field and polynomial commands fail with (O30). The lemmas before it run a command to the check that fails. -/

namespace Sys2Proof.Machine

/-! ## Running a command to the check that fails (R16, R17, R144, R148) -/

section
variable {s : State}

theorem finish_readE_uninit {r : EReg} (uninit : ¬ s.validE r) (rest : Byte → Except CmdError State) :
    finish s (readE s r >>= rest) = .next (s.failed 0x09#8 (uninitInfo 1 r.toNat) 0#32) := by
  rw [readE, if_neg uninit]; rfl

/-- A valid polynomial operand: the command goes on with its value. -/
theorem finish_readP {r : PReg} (valid : s.validP r) (rest : Poly → Except CmdError State) :
    finish s (readP s r >>= rest) = finish s (rest (s.valueP r)) := by
  rw [readP, if_pos valid]; rfl

theorem finish_readP_uninit {r : PReg} (uninit : ¬ s.validP r) (rest : Poly → Except CmdError State) :
    finish s (readP s r >>= rest) = .next (s.failed 0x09#8 (uninitInfo 2 r.toNat) 0#32) := by
  rw [readP, if_neg uninit]; rfl

/-- A check that finds something: the command ends in its error record. -/
theorem finish_failIf_fails {bad : Bool} (fails : bad = true) (x : CmdError) (rest : Unit → Except CmdError State) :
    finish s (failIf bad x >>= rest) = .next (s.failed x.kind.code x.info0 x.info1) := by
  rw [fails]; rfl

/-- The quotient and remainder registers of a P.DIV that the decoder admits (R59) differ, so its operands are what is checked. -/
theorem exec_pDiv {d r : PReg} (distinct : d ≠ r) (a b : PReg) :
    exec (.pDiv d r a b) s = finish s do
      let x ← readP s a
      let y ← readP s b
      failIf (isZeroP y) (err .arithmetic 3)
      return writeP (writeP s d (pdivmod fieldPoly x y).1) r (pdivmod fieldPoly x y).2 :=
  finish_failIf (beq_eq_false_iff_ne.2 distinct) _ _

theorem isZeroP_eq_false {p : Poly} (nonzero : p ≠ [0#8]) : isZeroP p = false := beq_eq_false_iff_ne.2 nonzero

/-- A degree that is not negative reads the same unsigned (R57). -/
theorem toNat_toInt_of_nonneg {k : BitVec 12} (h : 0 ≤ k.toInt) : k.toInt.toNat = k.toNat := by
  rw [BitVec.toInt_eq_toNat_cond] at h ⊢
  split at h <;> omega

/-- GF.INV of zero (R71, R76). -/
theorem exec_gfInv_of_zero {a : EReg} (d : EReg) (valid : s.validE a) (zero : s.valueE a = 0#8) :
    exec (.gfInv d a) s = .next (s.failed 0x07#8 1#32 0#32) :=
  (finish_readE valid _).trans (finish_failIf_fails (beq_iff_eq.2 zero) _ _)

end

/-! ## The failures (R74–R76, R89–R99) -/

/-- Settles O30: each command's reads and checks are run in their order up to the first that fails. -/
theorem fieldAndPolynomialTraps : Obligations.FieldAndPolynomialTraps := by
  refine ⟨fun s d a b => ⟨?firstElement, ?secondElement, exec_gfInv_of_zero d⟩, fun s d r a b x e k =>
    ⟨(finish_readE_uninit · _), ?monoNegative, ?monoCapacity, ?load, ?firstPoly, ?secondPoly, ?element, ?coefficient,
      ?product, ?shiftNegative, ?shiftCapacity, ?divisor⟩⟩
  case firstElement =>
    intro uninit
    exact ⟨finish_readE_uninit uninit _, finish_readE_uninit uninit _, finish_readE_uninit uninit _⟩
  case secondElement =>
    intro valid uninit
    exact ⟨(finish_readE valid _).trans (finish_readE_uninit uninit _), (finish_readE valid _).trans (finish_readE_uninit uninit _)⟩
  case monoNegative =>
    intro valid negative
    exact (finish_readE valid _).trans (finish_failIf_fails (decide_eq_true negative) _ _)
  case monoCapacity =>
    intro valid nonzero large
    have same := toNat_toInt_of_nonneg (k := k) (by omega)
    have exceeds : decide (Config.pmax < k.toInt.toNat + 1) = true := decide_eq_true (show 512 < k.toInt.toNat + 1 by omega)
    have notNegative : decide (k.toInt < 0) = false := decide_eq_false (by omega)
    refine (finish_readE valid _).trans ((finish_failIf notNegative _ _).trans ?_)
    simp only [if_neg nonzero, ← same]
    exact finish_failIf_fails exceeds _ _
  case load =>
    intro outside
    have fails : (k.toNat == 0 || decide (Config.pmax < k.toNat)) = true := by simpa using outside
    exact finish_failIf_fails fails _ _
  case firstPoly =>
    intro uninit
    refine ⟨fun i command => ?_, fun distinct => (exec_pDiv distinct a b).trans (finish_readP_uninit uninit _)⟩
    simp only [List.mem_cons, List.not_mem_nil, or_false] at command
    rcases command with rfl | rfl | rfl | rfl | rfl | rfl | rfl | rfl <;> exact finish_readP_uninit uninit _
  case secondPoly =>
    intro valid uninit
    exact ⟨(finish_readP valid _).trans (finish_readP_uninit uninit _), (finish_readP valid _).trans (finish_readP_uninit uninit _),
      fun distinct => (exec_pDiv distinct a b).trans ((finish_readP valid _).trans (finish_readP_uninit uninit _))⟩
  case element =>
    intro valid uninit
    exact ⟨(finish_readP valid _).trans (finish_readE_uninit uninit _), (finish_readP valid _).trans (finish_readE_uninit uninit _),
      (finish_readP valid _).trans (finish_readE_uninit uninit _)⟩
  case coefficient =>
    intro valid outside
    have fails : (decide (k.toInt < 0) || decide (((s.valueP a).length : Int) - 1 < k.toInt)) = true := by simpa using outside
    exact (finish_readP valid _).trans (finish_failIf_fails fails _ _)
  case product =>
    intro validA validB nonzeroA nonzeroB large
    have fails : (!isZeroP (s.valueP a) && !isZeroP (s.valueP b) &&
        decide (Config.pmax < (s.valueP a).length + (s.valueP b).length - 1)) = true := by
      rw [isZeroP_eq_false nonzeroA, isZeroP_eq_false nonzeroB]
      exact decide_eq_true (show 512 < (s.valueP a).length + (s.valueP b).length - 1 by omega)
    exact (finish_readP validA _).trans ((finish_readP validB _).trans (finish_failIf_fails fails _ _))
  case shiftNegative =>
    intro validA validE negative
    exact (finish_readP validA _).trans ((finish_readE validE _).trans (finish_failIf_fails (decide_eq_true negative) _ _))
  case shiftCapacity =>
    intro validA validE notNegative large
    rw [← toNat_toInt_of_nonneg notNegative] at large ⊢
    exact (finish_readP validA _).trans ((finish_readE validE _).trans
      ((finish_failIf (decide_eq_false (not_lt.2 notNegative)) _ _).trans (finish_failIf_fails (decide_eq_true large) _ _)))
  case divisor =>
    intro validA validB zero distinct
    exact (exec_pDiv distinct a b).trans ((finish_readP validA _).trans ((finish_readP validB _).trans
      (finish_failIf_fails (beq_iff_eq.2 zero) _ _)))

end Sys2Proof.Machine

/-! PROOFS. 41_field.md R70–R72: the field laws for any irreducible FIELD_POLY. A byte is the residue of a polynomial over GF(2) modulo FIELD_POLY, one to one (`residue`); R70's loop multiplies residues (`residue_gfMul`); and modulo an irreducible polynomial the residues are a field of 256 elements, whose laws the bytes take over. -/

namespace Sys2Proof.Machine

open Polynomial

/-! ## Numbers as polynomials over GF(2) -/

/-- The polynomial over GF(2) whose coefficient of x^k is bit k of `n`. -/
noncomputable def bitPoly (n : ℕ) : (ZMod 2)[X] := ∑ k ∈ Finset.range n, if n.testBit k then X ^ k else 0

theorem coeff_sum_bits (bits : ℕ → Bool) (w k : ℕ) :
    (∑ i ∈ Finset.range w, if bits i then (X : (ZMod 2)[X]) ^ i else 0).coeff k = if k < w ∧ bits k then 1 else 0 := by
  have term : ∀ i, (if bits i then (X : (ZMod 2)[X]) ^ i else 0).coeff k = if k = i then (if bits k then 1 else 0) else 0 := by
    intro i
    by_cases same : k = i
    · subst same; cases bits k <;> simp
    · cases bits i <;> simp [coeff_X_pow, same]
  rw [finsetSum_coeff, Finset.sum_congr rfl fun i _ => term i, Finset.sum_ite_eq]
  simp [ite_and]

theorem coeff_bitPoly (n k : ℕ) : (bitPoly n).coeff k = if n.testBit k then 1 else 0 := by
  have inside : n.testBit k = true → k < n := fun bit => Nat.lt_two_pow_self.trans_le (Nat.ge_two_pow_of_testBit bit)
  rw [bitPoly, coeff_sum_bits]
  exact if_congr ⟨And.right, fun bit => ⟨inside bit, bit⟩⟩ rfl rfl

theorem bitPoly_eq_sum {n w : ℕ} (h : n < 2 ^ w) : bitPoly n = ∑ k ∈ Finset.range w, if n.testBit k then X ^ k else 0 := by
  have inside : ∀ k, n.testBit k = true → k < w := fun k bit =>
    (Nat.pow_lt_pow_iff_right one_lt_two).1 ((Nat.ge_two_pow_of_testBit bit).trans_lt h)
  ext k
  rw [coeff_bitPoly, coeff_sum_bits]
  exact if_congr ⟨fun bit => ⟨inside k bit, bit⟩, And.right⟩ rfl rfl

theorem bitPoly_zero : bitPoly 0 = 0 := by simp [bitPoly]

theorem bitPoly_one : bitPoly 1 = 1 := by simp [bitPoly]

theorem bitPoly_xor (m n : ℕ) : bitPoly (m ^^^ n) = bitPoly m + bitPoly n := by
  have sum : ∀ x y : Bool, (if x ^^ y then 1 else 0 : ZMod 2) = (if x then 1 else 0) + if y then 1 else 0 := by decide
  ext k
  simp only [coeff_add, coeff_bitPoly, Nat.testBit_xor, sum]

/-- The constant term, and the rest shifted up. -/
theorem bitPoly_eq_add_shift (n : ℕ) : bitPoly n = (if n.testBit 0 then 1 else 0) + X * bitPoly (n / 2) := by
  ext k
  cases k with
  | zero => cases bit : n.testBit 0 <;> simp [coeff_bitPoly, bit, -Nat.testBit_zero]
  | succ k => cases n.testBit 0 <;> simp [coeff_bitPoly, Nat.testBit_succ, coeff_one]

theorem bitPoly_two_mul (n : ℕ) : bitPoly (2 * n) = X * bitPoly n := by
  simp [bitPoly_eq_add_shift (2 * n)]

theorem degree_bitPoly_lt {n w : ℕ} (h : n < 2 ^ w) : (bitPoly n).degree < w := by
  refine (degree_lt_iff_coeff_zero _ _).2 fun k hk => ?_
  simp [coeff_bitPoly, Nat.testBit_lt_two_pow (h.trans_le (Nat.pow_le_pow_right two_pos hk))]

theorem bitPoly_injective : Function.Injective bitPoly := by
  intro m n same
  have bits : ∀ x y : Bool, (if x then 1 else 0 : ZMod 2) = (if y then 1 else 0) → x = y := by decide
  refine Nat.eq_of_testBit_eq fun k => bits _ _ ?_
  rw [← coeff_bitPoly, ← coeff_bitPoly, same]

/-- Every polynomial over GF(2) of degree below `w` is that of a `w`-bit number. -/
theorem exists_bitPoly_eq {p : (ZMod 2)[X]} {w : ℕ} (h : p.degree < w) : ∃ n < 2 ^ w, bitPoly n = p := by
  rw [degree_lt_iff_coeff_zero] at h
  induction w generalizing p with
  | zero => exact ⟨0, by simp, bitPoly_zero.trans (ext fun k => (h k (Nat.zero_le k)).symm)⟩
  | succ w ih =>
    obtain ⟨n, bound, rest⟩ := ih (p := p.divX) fun k hk => by rw [coeff_divX]; exact h _ (by omega)
    have constant : ∀ c : ZMod 2, c.val < 2 ∧ bitPoly c.val = C c := by
      intro c
      fin_cases c
      · exact ⟨two_pos, bitPoly_zero.trans C_0.symm⟩
      · exact ⟨one_lt_two, bitPoly_one.trans C_1.symm⟩
    obtain ⟨small, value⟩ := constant (p.coeff 0)
    refine ⟨(2 * n) ^^^ (p.coeff 0).val, Nat.xor_lt_two_pow (by omega) (small.trans_le ?_), ?_⟩
    · exact Nat.le_self_pow w.succ_ne_zero 2
    · rw [bitPoly_xor, bitPoly_two_mul, rest, value, X_mul_divX_add]

/-- A monic polynomial over GF(2) is its top power and lower bits. -/
theorem exists_bitPoly_eq_of_monic {p : (ZMod 2)[X]} (monic : p.Monic) :
    ∃ m < 2 ^ p.natDegree, bitPoly (2 ^ p.natDegree + m) = p := by
  obtain ⟨n, bound, rfl⟩ := exists_bitPoly_eq (p := p) (w := p.natDegree + 1)
    (degree_le_natDegree.trans_lt (by exact_mod_cast Nat.lt_succ_self _))
  generalize hd : (bitPoly n).natDegree = d at bound
  have top : n.testBit d = true := by
    have one := monic.coeff_natDegree
    rw [hd, coeff_bitPoly] at one
    simpa using one
  have large := Nat.ge_two_pow_of_testBit top
  exact ⟨n - 2 ^ d, by omega, congrArg bitPoly (by omega)⟩

/-- `carryless` is the product of polynomials over GF(2). -/
theorem bitPoly_carryless (m : ℕ) {w n : ℕ} (h : n < 2 ^ w) : bitPoly (carryless m w n) = bitPoly m * bitPoly n := by
  induction w generalizing n with
  | zero =>
    obtain rfl : n = 0 := by omega
    simp [carryless, bitPoly_zero]
  | succ w ih =>
    have lowest : bitPoly (n % 2 * m) = bitPoly m * if n.testBit 0 then 1 else 0 := by
      rcases Nat.mod_two_eq_zero_or_one n with even | odd
      · simp [even, bitPoly_zero]
      · simp [odd]
    rw [carryless, bitPoly_xor, bitPoly_two_mul, ih (by omega), lowest, bitPoly_eq_add_shift n]
    ring

/-! ## FIELD_POLY as a polynomial (R70, R72) -/

theorem monic_natDegree_bitPoly {f : BitVec 9} (top : f.getLsbD 8 = true) :
    (bitPoly f.toNat).Monic ∧ (bitPoly f.toNat).natDegree = 8 := by
  have bound : (bitPoly f.toNat).natDegree ≤ 8 :=
    natDegree_le_of_degree_le (Order.le_of_lt_succ (degree_bitPoly_lt f.isLt))
  have leading : (bitPoly f.toNat).coeff 8 = 1 := by rw [coeff_bitPoly]; exact if_pos top
  exact ⟨monic_of_natDegree_le_of_coeff_eq_one 8 bound leading,
    natDegree_eq_of_le_of_coeff_ne_zero bound (leading ▸ one_ne_zero)⟩

theorem irreducible_bitPoly {f : BitVec 9} (h : irreducibleDegree8 f) : Irreducible (bitPoly f.toNat) := by
  obtain ⟨top, noProduct⟩ := h
  obtain ⟨monic, degree⟩ := monic_natDegree_bitPoly top
  refine monic.irreducible_iff_natDegree'.2 ⟨fun one => by simp [one] at degree, ?_⟩
  intro p q hp hq product inside
  have degrees : p.natDegree + q.natDegree = 8 := by rw [← hp.natDegree_mul hq, product, degree]
  obtain ⟨a, ha, pBits⟩ := exists_bitPoly_eq_of_monic hp
  obtain ⟨b, hb, qBits⟩ := exists_bitPoly_eq_of_monic hq
  rw [degree, Finset.mem_Ioc] at inside
  obtain ⟨positive, small⟩ := inside
  rw [show p.natDegree = 8 - q.natDegree by omega] at ha pBits
  refine noProduct q.natDegree (by omega) positive b hb a ha (bitPoly_injective ?_)
  have width : 2 ^ (8 - q.natDegree) ≤ 2 ^ 7 := Nat.pow_le_pow_right two_pos (by omega)
  rw [bitPoly_carryless _ (by omega), pBits, qBits, mul_comm, product]

/-! ## Field elements as residues (R67, R70) -/

/-- The residue of a bit vector, read as a polynomial over GF(2), modulo FIELD_POLY. -/
noncomputable def residue (f : BitVec 9) {w : ℕ} (c : BitVec w) : AdjoinRoot (bitPoly f.toNat) :=
  AdjoinRoot.mk _ (bitPoly c.toNat)

section
variable {f : BitVec 9}

theorem residue_xor {w : ℕ} (a b : BitVec w) : residue f (a ^^^ b) = residue f a + residue f b := by
  rw [residue, BitVec.toNat_xor, bitPoly_xor, map_add]; rfl

theorem residue_zero (w : ℕ) : residue f 0#w = 0 := by simp [residue, bitPoly_zero]

theorem residue_one : residue f 1#8 = 1 := by simp [residue, bitPoly_one]

theorem residue_self : residue f f = 0 := AdjoinRoot.mk_self

theorem residue_setWidth {v w : ℕ} {c : BitVec v} (h : c.toNat < 2 ^ w) : residue f (c.setWidth w) = residue f c := by
  rw [residue, BitVec.toNat_setWidth, Nat.mod_eq_of_lt h]; rfl

theorem residue_shiftLeft {r : BitVec 9} (h : r.toNat < 2 ^ 8) :
    residue f (r <<< 1) = AdjoinRoot.root _ * residue f r := by
  have double : (r <<< 1).toNat = 2 * r.toNat := by
    rw [BitVec.toNat_shiftLeft, Nat.shiftLeft_eq, Nat.mod_eq_of_lt (by omega), mul_comm, pow_one]
  rw [residue, double, bitPoly_two_mul, map_mul, AdjoinRoot.mk_X]; rfl

/-- The residue as a sum over the bits. -/
theorem residue_eq_sum {w : ℕ} (c : BitVec w) :
    residue f c = ∑ k ∈ Finset.range w, if c.getLsbD k then AdjoinRoot.root (bitPoly f.toNat) ^ k else 0 := by
  rw [residue, bitPoly_eq_sum c.isLt, map_sum]
  simp only [apply_ite (AdjoinRoot.mk _), map_pow, map_zero, AdjoinRoot.mk_X]
  rfl

/-! ## The product is that of the residues (R70) -/

theorem toNat_lt_of_getLsbD_eight {c : BitVec 9} (clear : c.getLsbD 8 = false) : c.toNat < 2 ^ 8 :=
  BitVec.toNat_lt_of_msb_false ((BitVec.msb_eq_getLsbD_last c).trans clear)

/-- R70's reduction by FIELD_POLY takes away a ninth bit and leaves the residue. -/
theorem residue_reduced (top : f.getLsbD 8 = true) (c : BitVec 9) :
    (if c.getLsbD 8 then c ^^^ f else c).toNat < 2 ^ 8 ∧ residue f (if c.getLsbD 8 then c ^^^ f else c) = residue f c := by
  split_ifs with overflow
  · have clear : (c ^^^ f).getLsbD 8 = false := by rw [BitVec.getLsbD_xor, overflow, top]; rfl
    exact ⟨toNat_lt_of_getLsbD_eight clear, by rw [residue_xor, residue_self, add_zero]⟩
  · exact ⟨toNat_lt_of_getLsbD_eight (Bool.eq_false_of_not_eq_true overflow), rfl⟩

/-- One round of R70's loop keeps the accumulator to 8 bits, multiplies its residue by x, and adds the residue of `a` where bit k of `b` is set. -/
theorem residue_gfRound (top : f.getLsbD 8 = true) (a b : Byte) {r : BitVec 9} (h : r.toNat < 2 ^ 8) (k : ℕ) :
    (gfRound f a b r k).toNat < 2 ^ 8 ∧
    residue f (gfRound f a b r k) = AdjoinRoot.root _ * residue f r + if b.getLsbD k then residue f a else 0 := by
  obtain ⟨small, same⟩ := residue_reduced top (r <<< 1)
  have wide : residue f (a.setWidth 9) = residue f a := residue_setWidth (a.isLt.trans (by decide))
  rw [← residue_shiftLeft h, ← same, gfRound]
  cases b.getLsbD k with
  | false => exact ⟨small, (add_zero _).symm⟩
  | true =>
    have narrowA : (a.setWidth 9).toNat < 2 ^ 8 :=
      (BitVec.toNat_setWidth_of_le (b := a) (show 8 ≤ 9 by decide)).trans_lt a.isLt
    exact ⟨(BitVec.toNat_xor ..).trans_lt (Nat.xor_lt_two_pow small narrowA), (residue_xor ..).trans (congrArg _ wide)⟩

/-- R70's loop over the lowest n bits of `b`, from any 8-bit accumulator. -/
theorem residue_foldl_gfRound (top : f.getLsbD 8 = true) (a b : Byte) (n : ℕ) {r : BitVec 9} (h : r.toNat < 2 ^ 8) :
    ((List.range n).reverse.foldl (gfRound f a b) r).toNat < 2 ^ 8 ∧
    residue f ((List.range n).reverse.foldl (gfRound f a b) r) = AdjoinRoot.root _ ^ n * residue f r +
      residue f a * ∑ k ∈ Finset.range n, if b.getLsbD k then AdjoinRoot.root (bitPoly f.toNat) ^ k else 0 := by
  induction n generalizing r with
  | zero => exact ⟨h, by simp⟩
  | succ n ih =>
    obtain ⟨small, round⟩ := residue_gfRound top a b h n
    obtain ⟨bound, rest⟩ := ih small
    rw [List.range_succ, List.reverse_concat, List.foldl_cons]
    refine ⟨bound, ?_⟩
    rw [rest, round, Finset.sum_range_succ]
    split_ifs <;> ring

theorem residue_gfMul (top : f.getLsbD 8 = true) (a b : Byte) : residue f (gfMul f a b) = residue f a * residue f b := by
  obtain ⟨small, product⟩ := residue_foldl_gfRound top a b 8 (r := 0#9) (by decide)
  rw [residue_zero, mul_zero, zero_add, ← residue_eq_sum] at product
  exact (residue_setWidth small).trans product

/-! ## Residues and elements are one to one -/

theorem residue_injective (top : f.getLsbD 8 = true) : Function.Injective (residue f : Byte → _) := by
  intro a b same
  obtain ⟨monic, degree⟩ := monic_natDegree_bitPoly top
  have below : ∀ c : Byte, (bitPoly c.toNat).degree < (bitPoly f.toNat).degree := fun c => by
    rw [degree_eq_natDegree monic.ne_zero, degree]
    exact degree_bitPoly_lt c.isLt
  have difference : bitPoly a.toNat - bitPoly b.toNat = 0 := by
    by_contra nonzero
    refine AdjoinRoot.mk_ne_zero_of_degree_lt monic nonzero ((degree_sub_le _ _).trans_lt (max_lt (below a) (below b))) ?_
    rw [map_sub]
    exact sub_eq_zero.2 same
  exact BitVec.eq_of_toNat_eq (bitPoly_injective (sub_eq_zero.1 difference))

theorem residue_surjective (top : f.getLsbD 8 = true) : Function.Surjective (residue f : Byte → _) := by
  intro x
  obtain ⟨monic, degree⟩ := monic_natDegree_bitPoly top
  obtain ⟨p, rfl⟩ := AdjoinRoot.mk_surjective x
  have small : (p %ₘ bitPoly f.toNat).degree < (8 : ℕ) := by
    rw [← degree, ← degree_eq_natDegree monic.ne_zero]
    exact degree_modByMonic_lt p monic
  obtain ⟨n, bound, value⟩ := exists_bitPoly_eq small
  refine ⟨BitVec.ofNat 8 n, ?_⟩
  rw [residue, BitVec.toNat_ofNat, Nat.mod_eq_of_lt bound, value]
  exact AdjoinRoot.mk_leftInverse monic (AdjoinRoot.mk _ p)

end

/-! ## The laws of R72 -/

section
variable {f : BitVec 9}

theorem gfMul_comm (top : f.getLsbD 8 = true) (a b : Byte) : gfMul f a b = gfMul f b a := by
  apply residue_injective top
  simp only [residue_gfMul top, mul_comm]

theorem gfMul_assoc (top : f.getLsbD 8 = true) (a b c : Byte) : gfMul f (gfMul f a b) c = gfMul f a (gfMul f b c) := by
  apply residue_injective top
  simp only [residue_gfMul top, mul_assoc]

theorem gfMul_xor (top : f.getLsbD 8 = true) (a b c : Byte) : gfMul f a (b ^^^ c) = gfMul f a b ^^^ gfMul f a c := by
  apply residue_injective top
  simp only [residue_gfMul top, residue_xor, mul_add]

theorem gfMul_zero (top : f.getLsbD 8 = true) (a : Byte) : gfMul f a 0#8 = 0#8 := by
  apply residue_injective top
  rw [residue_gfMul top, residue_zero, mul_zero]

theorem gfMul_one (top : f.getLsbD 8 = true) (a : Byte) : gfMul f a 1#8 = a := by
  apply residue_injective top
  rw [residue_gfMul top, residue_one, mul_one]

theorem residue_gfInv (top : f.getLsbD 8 = true) (a : Byte) : residue f (gfInv f a) = residue f a ^ 254 := by
  simp only [gfInv, residue_gfMul top]
  ring

theorem eq_zero_or_eq_zero_of_gfMul (h : irreducibleDegree8 f) {a b : Byte} (product : gfMul f a b = 0#8) :
    a = 0#8 ∨ b = 0#8 := by
  have : Fact (Irreducible (bitPoly f.toNat)) := ⟨irreducible_bitPoly h⟩
  have zero := congrArg (residue f) product
  rw [residue_gfMul h.1, residue_zero, mul_eq_zero, ← residue_zero 8] at zero
  exact zero.imp (residue_injective h.1 ·) (residue_injective h.1 ·)

/-- R71's power is an inverse: the residues are a field of 256 elements. -/
theorem gfMul_gfInv (h : irreducibleDegree8 f) {a : Byte} (nonzero : a ≠ 0#8) : gfMul f a (gfInv f a) = 1#8 := by
  have : Fact (Irreducible (bitPoly f.toNat)) := ⟨irreducible_bitPoly h⟩
  have bijective : Function.Bijective (residue f : Byte → _) := ⟨residue_injective h.1, residue_surjective h.1⟩
  let elements : Fintype (AdjoinRoot (bitPoly f.toNat)) := .ofBijective _ bijective
  have count : Fintype.card (AdjoinRoot (bitPoly f.toNat)) = 256 :=
    (Fintype.card_of_bijective bijective).symm.trans FinEnum.card_eq_fintypeCard.symm
  have unit : residue f a ≠ 0 := residue_zero (f := f) 8 ▸ bijective.1.ne nonzero
  apply bijective.1
  rw [residue_gfMul h.1, residue_gfInv h.1, residue_one, ← pow_succ', ← FiniteField.pow_card_sub_one_eq_one _ unit, count]

theorem eq_gfInv_of_gfMul (h : irreducibleDegree8 f) {a b : Byte} (nonzero : a ≠ 0#8) (product : gfMul f a b = 1#8) :
    b = gfInv f a := by
  calc b = gfMul f (gfMul f a (gfInv f a)) b := by rw [gfMul_gfInv h nonzero, gfMul_comm h.1, gfMul_one h.1]
    _ = gfMul f (gfMul f a b) (gfInv f a) := by rw [gfMul_assoc h.1, gfMul_comm h.1 _ b, ← gfMul_assoc h.1]
    _ = gfInv f a := by rw [product, gfMul_comm h.1, gfMul_one h.1]

theorem gfInv_ne_zero_of_irreducible (h : irreducibleDegree8 f) {a : Byte} (nonzero : a ≠ 0#8) : gfInv f a ≠ 0#8 := by
  intro zero
  have product := gfMul_gfInv h nonzero
  rw [zero, gfMul_zero h.1] at product
  exact absurd product (by decide)

end

end Sys2Proof.Machine

/-! PROOFS. 41_field.md: the laws of the field (O32), and the product in the form of the EXP and LOG tables (O31). -/

namespace Sys2Proof.Machine

/-! ## Powers of 2 under the default FIELD_POLY (R70, R78) -/

theorem fieldExp_succ (i : ℕ) : fieldExp (i + 1) = fieldDouble (fieldExp i) := by
  rw [fieldExp, fieldDouble]
  split_ifs
  · rfl
  · exact (BitVec.xor_zero).symm

theorem fieldExp_eq_iterate (i : ℕ) : fieldExp i = fieldDouble^[i] 1#8 := by
  induction i with
  | zero => rfl
  | succ i ih => rw [fieldExp_succ, ih, Function.iterate_succ_apply']

theorem gfMul_fieldExp (i j : ℕ) : gfMul fieldPoly (fieldExp i) (fieldExp j) = fieldExp (i + j) := by
  induction i with
  | zero => rw [Nat.zero_add]; exact gfMul_one_left _
  | succ i ih => rw [fieldExp_succ, gfMul_fieldDouble, ih, Nat.succ_add, fieldExp_succ]

/-- 2 has order 255. -/
theorem fieldExp_mod (i : ℕ) : fieldExp (i % 255) = fieldExp i := by
  have period : Function.IsPeriodicPt fieldDouble 255 1#8 := by
    rw [Function.IsPeriodicPt, Function.IsFixedPt, ← fieldExp_eq_iterate]
    decide +kernel
  rw [fieldExp_eq_iterate, fieldExp_eq_iterate, period.iterate_mod_apply]

theorem exists_fieldExp_eq {a : Byte} (nonzero : a ≠ 0#8) : ∃ i < 255, fieldExp i = a := by
  obtain ⟨i, bound, value⟩ := List.mem_iterate.1 (mem_iterate_fieldDouble nonzero)
  exact ⟨i, bound, (fieldExp_eq_iterate i).trans value.symm⟩

theorem fieldExp_ne_zero (i : ℕ) : fieldExp i ≠ 0#8 := by
  induction i with
  | zero => decide
  | succ i ih => exact fieldExp_succ i ▸ fieldDouble_ne_zero _ ih

/-! ## The statements -/

/-- Settles O32: the residues modulo an irreducible FIELD_POLY are a field, and the elements take their laws from it. -/
theorem fieldLawsAndInverse : Obligations.FieldLawsAndInverse := by
  refine ⟨fun f h => ⟨?commutative, ?associative, ?distributive, ?identities, ?inverse, ?noZeroDivisors, ?unique⟩, ?power, ?zero⟩
  case commutative => exact fun a b => ⟨BitVec.xor_comm a b, gfMul_comm h.1 a b⟩
  case associative => exact fun a b c => ⟨BitVec.xor_assoc a b c, gfMul_assoc h.1 a b c⟩
  case distributive => exact gfMul_xor h.1
  case identities => exact fun a => ⟨gfMul_zero h.1 a, gfMul_one h.1 a⟩
  case inverse =>
    intro a nonzero
    have product := gfMul_gfInv h nonzero
    have back : gfMul f (gfInv f a) a = 1#8 := (gfMul_comm h.1 _ _).trans product
    exact ⟨(eq_gfInv_of_gfMul h (gfInv_ne_zero_of_irreducible h nonzero) back).symm, product⟩
  case noZeroDivisors => exact fun a b => eq_zero_or_eq_zero_of_gfMul h
  case unique => exact fun a nonzero => ⟨gfInv_ne_zero_of_irreducible h nonzero, fun b => eq_gfInv_of_gfMul h nonzero⟩
  case power =>
    intro i bound
    refine (eq_gfInv_of_gfMul fieldPoly_irreducible (fieldExp_ne_zero i) ?_).symm
    rw [gfMul_fieldExp, show i + (255 - i) = 255 by omega, ← fieldExp_mod]
    rfl
  case zero => exact fun s d a => exec_gfInv_of_zero d

/-- Settles O31: powers of 2 multiply by adding exponents, and 2 has order 255. -/
theorem multiplicationTableForm : Obligations.MultiplicationTableForm := by
  have zero := gfMul_zero fieldPoly_irreducible.1
  refine ⟨fun i j _ _ => ?_, fun a => exists_fieldExp_eq, fun a => ⟨zero a, ?_⟩⟩
  · rw [gfMul_fieldExp, fieldExp_mod]
  · rw [gfMul_comm fieldPoly_irreducible.1, zero]

end Sys2Proof.Machine

/-! PROOFS. 42_polynomial.md R80–R84 as ring arithmetic. A coefficient list is a polynomial over the residues modulo FIELD_POLY (`residuePoly`); sum, product and shifted product of lists are those of the polynomials, a canonical list has the length that the degree gives, and canonical lists with the same polynomial are the same. -/

namespace Sys2Proof.Machine

open Polynomial

/-! ## Coefficients of a list (R80) -/

theorem polyCoefficient_cons (c : Byte) (cs : Poly) (k : ℕ) :
    polyCoefficient (c :: cs) k = if k = cs.length then c else polyCoefficient cs k := by
  unfold polyCoefficient
  rcases lt_trichotomy k cs.length with below | rfl | above
  · have later : cs.length - k = cs.length - 1 - k + 1 := by omega
    simp [below, below.ne, below.trans (Nat.lt_succ_self _), later]
  · simp
  · simp [above.ne', not_lt.2 above.le, not_lt.2 (Nat.succ_le_of_lt above)]

theorem polyCoefficient_of_length_le {p : Poly} {k : ℕ} (h : p.length ≤ k) : polyCoefficient p k = 0#8 :=
  if_neg (not_lt.2 h)

theorem polyCoefficient_length_sub_one (p : Poly) : polyCoefficient p (p.length - 1) = lead p := by
  cases p with
  | nil => rfl
  | cons c cs => simp [polyCoefficient_cons, lead]

/-- A list is its length and its coefficients. -/
theorem eq_of_polyCoefficient {p q : Poly} (length : p.length = q.length)
    (same : ∀ k, polyCoefficient p k = polyCoefficient q k) : p = q := by
  induction p generalizing q with
  | nil => exact (List.length_eq_zero_iff.1 length.symm).symm
  | cons c cs ih =>
    obtain _ | ⟨d, ds⟩ := q
    · simp at length
    · simp only [List.length_cons, Nat.add_right_cancel_iff] at length
      simp only [polyCoefficient_cons, length] at same
      have top : c = d := by simpa using same ds.length
      have rest : cs = ds := by
        refine ih length fun k => ?_
        by_cases high : k = ds.length
        · rw [polyCoefficient_of_length_le (by omega), polyCoefficient_of_length_le (by omega)]
        · simpa [high] using same k
      rw [top, rest]

/-- A canonical polynomial with no coefficient at degree n − 1 has fewer than n of them, or is zero. -/
theorem eq_zero_or_length_lt {p : Poly} (hp : canonical p) {n : ℕ} (bound : p.length ≤ n)
    (top : polyCoefficient p (n - 1) = 0#8) : p = [0#8] ∨ p.length < n := by
  obtain rfl | shorter := bound.eq_or_lt
  · by_contra! nonzero
    exact lead_ne_zero hp (isZeroP_eq_false nonzero.1) (polyCoefficient_length_sub_one p ▸ top)
  · exact .inr shorter

theorem canonical_zero : canonical [0#8] := ⟨le_rfl, .inl rfl⟩

/-! ## Lists as polynomials over the residues -/

/-- The polynomial of a coefficient list, highest degree first (R80), over the residues modulo FIELD_POLY. -/
noncomputable def residuePoly (f : BitVec 9) : List Byte → (AdjoinRoot (bitPoly f.toNat))[X]
  | [] => 0
  | c :: cs => C (residue f c) * X ^ cs.length + residuePoly f cs

section
variable {f : BitVec 9}

theorem coeff_residuePoly (p : Poly) (k : ℕ) : (residuePoly f p).coeff k = residue f (polyCoefficient p k) := by
  induction p with
  | nil => exact (residue_zero 8).symm
  | cons c cs ih =>
    rw [residuePoly, coeff_add, coeff_C_mul_X_pow, ih, polyCoefficient_cons]
    split_ifs with top
    · rw [polyCoefficient_of_length_le top.ge, residue_zero, add_zero]
    · rw [zero_add]

theorem residuePoly_zero : residuePoly f [0#8] = 0 := by simp [residuePoly, residue_zero]

theorem residuePoly_zero_cons (cs : List Byte) : residuePoly f (0#8 :: cs) = residuePoly f cs := by
  rw [residuePoly, residue_zero, C_0, zero_mul, zero_add]

theorem residuePoly_replicate (n : ℕ) : residuePoly f (List.replicate n 0#8) = 0 := by
  induction n with
  | zero => rfl
  | succ n ih => rw [List.replicate_succ, residuePoly_zero_cons, ih]

theorem residuePoly_append (l m : List Byte) : residuePoly f (l ++ m) = residuePoly f l * X ^ m.length + residuePoly f m := by
  induction l with
  | nil => simp [residuePoly]
  | cons c cs ih =>
    rw [List.cons_append, residuePoly, residuePoly, ih, List.length_append]
    ring

theorem residuePoly_monomial (c : Byte) (e : ℕ) : residuePoly f (c :: List.replicate e 0#8) = C (residue f c) * X ^ e := by
  rw [residuePoly, residuePoly_replicate, List.length_replicate, add_zero]

theorem residuePoly_zipWith_xor {l m : List Byte} (length : l.length = m.length) :
    residuePoly f (List.zipWith (· ^^^ ·) l m) = residuePoly f l + residuePoly f m := by
  induction l generalizing m with
  | nil => simp [List.length_eq_zero_iff.1 length.symm, residuePoly]
  | cons c cs ih =>
    obtain _ | ⟨d, ds⟩ := m
    · simp at length
    · have rest : cs.length = ds.length := Nat.succ.inj length
      rw [List.zipWith_cons_cons, residuePoly, residuePoly, residuePoly, ih rest, List.length_zipWith, rest, min_self,
        residue_xor, C_add]
      ring

theorem residuePoly_map_gfMul (top : f.getLsbD 8 = true) (k : Byte) (l : List Byte) :
    residuePoly f (l.map (gfMul f k)) = C (residue f k) * residuePoly f l := by
  induction l with
  | nil => simp [residuePoly]
  | cons c cs ih =>
    rw [List.map_cons, residuePoly, residuePoly, ih, List.length_map, residue_gfMul top, C_mul]
    ring

/-! ## The operations on lists are those of the polynomials (R81–R84) -/

theorem residuePoly_canon (l : List Byte) : residuePoly f (canon l) = residuePoly f l := by
  induction l using canon.induct with
  | case1 => exact residuePoly_zero
  | case2 c => rfl
  | case3 c cs ih => rw [canon, if_pos rfl, ih, residuePoly_zero_cons]
  | case4 c d cs hc => rw [canon, if_neg hc]

theorem residuePoly_addAligned {s l : Poly} (h : s.length ≤ l.length) :
    residuePoly f (addAligned s l) = residuePoly f s + residuePoly f l := by
  have aligned : s.length = (l.drop (l.length - s.length)).length := by rw [List.length_drop]; omega
  have parts := residuePoly_append (f := f) (l.take (l.length - s.length)) (l.drop (l.length - s.length))
  rw [List.take_append_drop, ← aligned] at parts
  rw [addAligned, residuePoly_append, residuePoly_zipWith_xor aligned, List.length_zipWith, ← aligned, min_self, parts]
  ring

theorem residuePoly_padd (a b : Poly) : residuePoly f (padd a b) = residuePoly f a + residuePoly f b := by
  unfold padd
  split_ifs with zeroA zeroB shorter
  · rw [beq_iff_eq.1 zeroA, pzero, residuePoly_zero, zero_add]
  · rw [beq_iff_eq.1 zeroB, pzero, residuePoly_zero, add_zero]
  · rw [residuePoly_canon, residuePoly_addAligned shorter]
  · rw [residuePoly_canon, residuePoly_addAligned (by omega), add_comm]

theorem residuePoly_convolve (top : f.getLsbD 8 = true) (a : List Byte) {b : List Byte} (hb : 1 ≤ b.length) :
    residuePoly f (convolve f a b) = residuePoly f a * residuePoly f b := by
  induction a with
  | nil => rw [convolve, residuePoly_replicate, residuePoly, zero_mul]
  | cons x xs ih =>
    have aligned : (b.map (gfMul f x) ++ List.replicate xs.length 0#8).length = (0#8 :: convolve f xs b).length := by
      simp only [List.length_append, List.length_map, List.length_replicate, List.length_cons, length_convolve f xs hb]
      omega
    rw [convolve, residuePoly_zipWith_xor aligned, residuePoly_append, residuePoly_map_gfMul top, residuePoly_replicate,
      List.length_replicate, residuePoly_zero_cons, ih, residuePoly, add_zero]
    ring

theorem residuePoly_pmul (top : f.getLsbD 8 = true) (a : Poly) {b : Poly} (hb : 1 ≤ b.length) :
    residuePoly f (pmul f a b) = residuePoly f a * residuePoly f b := by
  unfold pmul
  split_ifs with zero
  · rw [pzero, residuePoly_zero]
    obtain zeroA | zeroB := Bool.or_eq_true_iff.1 zero
    · rw [beq_iff_eq.1 zeroA, pzero, residuePoly_zero, zero_mul]
    · rw [beq_iff_eq.1 zeroB, pzero, residuePoly_zero, mul_zero]
  · rw [residuePoly_canon, residuePoly_convolve top a hb]

theorem residuePoly_pmulm (top : f.getLsbD 8 = true) (a : Poly) (k : Byte) (e : ℕ) :
    residuePoly f (pmulm f a k e) = residuePoly f a * (C (residue f k) * X ^ e) := by
  have scaled : scale f a k = a.map (gfMul f k) := List.map_congr_left fun c _ => gfMul_comm top c k
  unfold pmulm
  split_ifs with zero
  · rw [zero, residue_zero, C_0, zero_mul, mul_zero, pzero, residuePoly_zero]
  · rw [residuePoly_canon, residuePoly_append, scaled, residuePoly_map_gfMul top, residuePoly_replicate, List.length_replicate]
    ring

/-! ## Canonical lists and their polynomials are one to one (R81) -/

theorem residue_ne_zero (top : f.getLsbD 8 = true) {c : Byte} (nonzero : c ≠ 0#8) : residue f c ≠ 0 :=
  residue_zero (f := f) 8 ▸ (residue_injective top).ne nonzero

theorem polyCoefficient_eq_of_coeff (top : f.getLsbD 8 = true) {p : Poly} {k : ℕ} {c : Byte}
    (h : (residuePoly f p).coeff k = residue f c) : polyCoefficient p k = c :=
  residue_injective top ((coeff_residuePoly p k).symm.trans h)

theorem length_eq_natDegree (top : f.getLsbD 8 = true) {p : Poly} (hp : canonical p) :
    p.length = (residuePoly f p).natDegree + 1 := by
  obtain ⟨nonempty, leading⟩ := hp
  have bound : (residuePoly f p).natDegree ≤ p.length - 1 := natDegree_le_iff_coeff_eq_zero.2 fun k above => by
    rw [coeff_residuePoly, polyCoefficient_of_length_le (by omega), residue_zero]
  suffices degree : (residuePoly f p).natDegree = p.length - 1 by omega
  obtain one | nonzero := leading
  · omega
  · refine natDegree_eq_of_le_of_coeff_ne_zero bound ?_
    rw [coeff_residuePoly, polyCoefficient_length_sub_one]
    exact residue_ne_zero top nonzero

theorem leadingCoeff_residuePoly (top : f.getLsbD 8 = true) {p : Poly} (hp : canonical p) :
    (residuePoly f p).leadingCoeff = residue f (lead p) := by
  have degree : (residuePoly f p).natDegree = p.length - 1 := by have := length_eq_natDegree top hp; omega
  rw [leadingCoeff, degree, coeff_residuePoly, polyCoefficient_length_sub_one]

theorem eq_of_residuePoly_eq (top : f.getLsbD 8 = true) {p q : Poly} (hp : canonical p) (hq : canonical q)
    (same : residuePoly f p = residuePoly f q) : p = q := by
  refine eq_of_polyCoefficient ?_ fun k => polyCoefficient_eq_of_coeff top ?_
  · rw [length_eq_natDegree top hp, length_eq_natDegree top hq, same]
  · rw [same, coeff_residuePoly]

end

end Sys2Proof.Machine

/-! PROOFS. 42_polynomial.md R81–R84 and R94: canonicalisation (O36), the coefficients of sums and products (O37, O38), and evaluation (O39). -/

namespace Sys2Proof.Machine

open Polynomial

/-! ## Canonicalisation (R81) -/

theorem canon_eq_self {p : Poly} (hp : canonical p) : canon p = p := by
  obtain ⟨nonempty, leading⟩ := hp
  match p with
  | [c] => rfl
  | c :: d :: cs => exact if_neg (leading.resolve_left (by simp))

/-- What `canon` leaves out is a run of zeros, and it stops at a coefficient that is not zero or is the last. -/
theorem canon_eq_drop {cs : List Byte} (nonempty : cs ≠ []) : ∃ k, k < cs.length ∧ canon cs = cs.drop k ∧
    (∀ j, j < k → cs.getD j 0#8 = 0#8) ∧ (k + 1 = cs.length ∨ cs.getD k 0#8 ≠ 0#8) := by
  induction cs using canon.induct with
  | case1 => exact absurd rfl nonempty
  | case2 c => exact ⟨0, by simp [canon]⟩
  | case3 c cs ih =>
    obtain ⟨k, inside, dropped, zeros, stop⟩ := ih (by simp)
    refine ⟨k + 1, Nat.succ_lt_succ inside, ?_, ?_, ?_⟩
    · rw [canon, if_pos rfl, dropped, List.drop_succ_cons]
    · rintro (_ | j) before
      · rfl
      · exact zeros j (Nat.lt_of_succ_lt_succ before)
    · exact stop.imp (congrArg (· + 1)) id
  | case4 c d cs hc => exact ⟨0, by simp [canon, hc]⟩

theorem canon_replicate (n : ℕ) : canon (List.replicate n 0#8) = [0#8] := by
  induction n with
  | zero => rfl
  | succ n ih =>
    cases n with
    | zero => rfl
    | succ n => exact ih

/-- Settles O36: `canon` by its own recursion. -/
theorem canonicalisation : Obligations.Canonicalisation :=
  ⟨fun cs nonempty => ⟨canonical_canon cs, canon_eq_drop nonempty⟩, fun n _ => canon_replicate n, fun _ => canon_eq_self⟩

/-! ## Sum and product (R82–R84) -/

theorem canonical_pmul (f : BitVec 9) (a b : Poly) : canonical (pmul f a b) := by
  unfold pmul
  split_ifs
  · exact canonical_zero
  · exact canonical_canon _

section
variable {a b : Poly}

theorem canonical_padd (ha : canonical a) (hb : canonical b) : canonical (padd a b) := by
  unfold padd
  split_ifs
  · exact hb
  · exact ha
  · exact canonical_canon _
  · exact canonical_canon _

theorem length_padd_le (ha : canonical a) (hb : canonical b) : (padd a b).length ≤ max a.length b.length := by
  have nonempty : 1 ≤ a.length ∧ 1 ≤ b.length := ⟨ha.1, hb.1⟩
  unfold padd
  split_ifs with zeroA zeroB shorter
  · exact le_max_right _ _
  · exact le_max_left _ _
  · have stripped := length_canon_le (addAligned a b)
    rw [length_addAligned shorter] at stripped
    omega
  · have stripped := length_canon_le (addAligned b a)
    rw [length_addAligned (by omega)] at stripped
    omega

theorem polyCoefficient_padd (a b : Poly) (k : ℕ) :
    polyCoefficient (padd a b) k = polyCoefficient a k ^^^ polyCoefficient b k := by
  apply polyCoefficient_eq_of_coeff fieldPoly_irreducible.1
  rw [residuePoly_padd, coeff_add, coeff_residuePoly, coeff_residuePoly, residue_xor]

theorem padd_zero (a : Poly) : padd a [0#8] = a := by
  unfold padd
  split_ifs with zero
  · exact (beq_iff_eq.1 zero).symm
  · rfl
  all_goals exact absurd rfl ‹¬ isZeroP [0#8] = true›

theorem eq_zero_of_polyCoefficient (ha : canonical a) (zero : ∀ k, polyCoefficient a k = 0#8) : a = [0#8] :=
  (eq_zero_or_length_lt ha le_rfl (zero _)).resolve_right (lt_irrefl _)

theorem padd_self (ha : canonical a) : padd a a = [0#8] :=
  eq_zero_of_polyCoefficient (canonical_padd ha ha) fun k => by rw [polyCoefficient_padd, BitVec.xor_self]

theorem padd_comm (ha : canonical a) (hb : canonical b) : padd a b = padd b a := by
  refine eq_of_residuePoly_eq fieldPoly_irreducible.1 (canonical_padd ha hb) (canonical_padd hb ha) ?_
  rw [residuePoly_padd, residuePoly_padd, add_comm]

end

/-- Settles O37: the polynomial of a sum is the sum of the polynomials, and a canonical list is its coefficients. -/
theorem additionCoefficients : Obligations.AdditionCoefficients := fun a b ha hb =>
  ⟨canonical_padd ha hb, length_padd_le ha hb, polyCoefficient_padd a b, padd_self ha, padd_comm ha hb, padd_zero a, rfl⟩

section
variable {f : BitVec 9}

theorem residue_foldl_xor (g : ℕ → Byte) (n : ℕ) :
    residue f ((List.range n).foldl (fun r i => r ^^^ g i) 0#8) = ∑ i ∈ Finset.range n, residue f (g i) := by
  induction n with
  | zero => exact residue_zero 8
  | succ n ih => rw [List.range_succ, List.foldl_concat, residue_xor, ih, Finset.sum_range_succ]

/-- R83's loops collect the convolution of the coefficients. -/
theorem polyCoefficient_pmul (top : f.getLsbD 8 = true) (a : Poly) {b : Poly} (hb : 1 ≤ b.length) (k : ℕ) :
    polyCoefficient (pmul f a b) k =
      (List.range (k + 1)).foldl (fun r i => r ^^^ gfMul f (polyCoefficient a i) (polyCoefficient b (k - i))) 0#8 := by
  apply polyCoefficient_eq_of_coeff top
  rw [residuePoly_pmul top a hb, coeff_mul, Finset.Nat.sum_antidiagonal_eq_sum_range_succ_mk, residue_foldl_xor]
  simp only [coeff_residuePoly, residue_gfMul top]

theorem polyCoefficient_pmulm (top : f.getLsbD 8 = true) (a : Poly) (k : Byte) (e j : ℕ) :
    polyCoefficient (pmulm f a k e) j = if j < e then 0#8 else gfMul f (polyCoefficient a (j - e)) k := by
  apply polyCoefficient_eq_of_coeff top
  rw [residuePoly_pmulm top, ← mul_assoc, coeff_mul_X_pow', coeff_mul_C, coeff_residuePoly]
  by_cases low : j < e
  · rw [if_neg (not_le.2 low), if_pos low, residue_zero]
  · rw [if_pos (not_lt.1 low), if_neg low, residue_gfMul top]

theorem length_pmul (h : irreducibleDegree8 f) {a b : Poly} (ha : canonical a) (hb : canonical b) (nonzeroA : a ≠ [0#8])
    (nonzeroB : b ≠ [0#8]) : (pmul f a b).length = a.length + b.length - 1 := by
  have leading : (residuePoly f a).leadingCoeff * (residuePoly f b).leadingCoeff ≠ 0 := by
    rw [leadingCoeff_residuePoly h.1 ha, leadingCoeff_residuePoly h.1 hb, ← residue_gfMul h.1]
    refine residue_ne_zero h.1 fun zero => ?_
    obtain zeroA | zeroB := eq_zero_or_eq_zero_of_gfMul h zero
    · exact lead_ne_zero ha (isZeroP_eq_false nonzeroA) zeroA
    · exact lead_ne_zero hb (isZeroP_eq_false nonzeroB) zeroB
  rw [length_eq_natDegree h.1 (canonical_pmul f a b), residuePoly_pmul h.1 a hb.1, natDegree_mul' leading,
    length_eq_natDegree h.1 ha, length_eq_natDegree h.1 hb]
  omega

theorem length_pmulm (h : irreducibleDegree8 f) {a : Poly} (ha : canonical a) {k : Byte} (nonzero : a ≠ [0#8]) (hk : k ≠ 0#8)
    (e : ℕ) : (pmulm f a k e).length = a.length + e := by
  have leading : gfMul f (lead a) k ≠ 0#8 := fun zero =>
    (eq_zero_or_eq_zero_of_gfMul h zero).elim (lead_ne_zero ha (isZeroP_eq_false nonzero)) hk
  have stripped : canonical (scale f a k ++ List.replicate e 0#8) := by
    obtain _ | ⟨c, cs⟩ := a
    · exact absurd ha.1 (by simp)
    · exact ⟨by simp [scale], .inr leading⟩
  rw [pmulm, if_neg hk, canon_eq_self stripped]
  simp [scale]

theorem pmul_of_zero {a b : Poly} (zero : a = [0#8] ∨ b = [0#8]) : pmul f a b = [0#8] :=
  if_pos (Bool.or_eq_true_iff.2 (zero.imp beq_iff_eq.2 beq_iff_eq.2))

theorem pmulm_of_zero (top : f.getLsbD 8 = true) {a : Poly} {k : Byte} (zero : a = [0#8] ∨ k = 0#8) (e : ℕ) :
    pmulm f a k e = [0#8] := by
  refine eq_of_residuePoly_eq top (canonical_pmulm ..) canonical_zero ?_
  rw [residuePoly_pmulm top, residuePoly_zero]
  obtain rfl | rfl := zero
  · rw [residuePoly_zero, zero_mul]
  · rw [residue_zero, C_0, zero_mul, mul_zero]

theorem pmul_comm (top : f.getLsbD 8 = true) {a b : Poly} (ha : 1 ≤ a.length) (hb : 1 ≤ b.length) :
    pmul f a b = pmul f b a := by
  refine eq_of_residuePoly_eq top (canonical_pmul ..) (canonical_pmul ..) ?_
  rw [residuePoly_pmul top a hb, residuePoly_pmul top b ha, mul_comm]

end

/-- Settles O38: the polynomial of a product is the product of the polynomials, whose leading coefficient is a product of nonzero elements. -/
theorem productCoefficients : Obligations.ProductCoefficients := by
  have irreducible := fieldPoly_irreducible
  refine ⟨fun a b ha hb => ⟨canonical_pmul .., polyCoefficient_pmul irreducible.1 a hb.1, ?_, pmul_of_zero,
      pmul_comm irreducible.1 ha.1 hb.1⟩,
    fun a k e ha => ⟨canonical_pmulm .., polyCoefficient_pmulm irreducible.1 a k e, ?_,
      fun zero => pmulm_of_zero irreducible.1 zero e⟩⟩
  · exact length_pmul irreducible ha hb
  · exact fun nonzero hk => length_pmulm irreducible ha nonzero hk e

/-! ## Evaluation (R94) -/

section
variable {f : BitVec 9}

theorem foldl_last (l : List Byte) (r : Byte) : l.foldl (fun _ c => c) r = l.getLastD r := by
  induction l generalizing r with
  | nil => rfl
  | cons c cs ih => rw [List.foldl_cons, ih, List.getLastD_cons]

/-- The fast paths of R94 are Horner's loop at 0 and 1. -/
theorem peval_eq_foldl (top : f.getLsbD 8 = true) (p : Poly) (x : Byte) :
    peval f p x = p.foldl (fun r c => gfMul f x r ^^^ c) 0#8 := by
  unfold peval
  split_ifs with zero one
  · have factor (r : Byte) : gfMul f 0#8 r = 0#8 := (gfMul_comm top _ _).trans (gfMul_zero top r)
    simp only [zero, factor, BitVec.zero_xor, foldl_last]
  · have factor (r : Byte) : gfMul f 1#8 r = r := (gfMul_comm top _ _).trans (gfMul_one top r)
    simp only [one, factor]
  · cases p with
    | nil => rfl
    | cons c cs => rw [List.foldl_cons, gfMul_zero top, BitVec.zero_xor]; rfl

theorem residue_horner (top : f.getLsbD 8 = true) (x : Byte) (p : Poly) (r : Byte) :
    residue f (p.foldl (fun r c => gfMul f x r ^^^ c) r) =
      residue f r * residue f x ^ p.length + (residuePoly f p).eval (residue f x) := by
  induction p generalizing r with
  | nil => simp [residuePoly]
  | cons c cs ih =>
    rw [List.foldl_cons, ih, residue_xor, residue_gfMul top, residuePoly, eval_add, eval_C_mul, eval_pow, eval_X,
      List.length_cons]
    ring

theorem residue_peval (top : f.getLsbD 8 = true) (p : Poly) (x : Byte) :
    residue f (peval f p x) = (residuePoly f p).eval (residue f x) := by
  rw [peval_eq_foldl top, residue_horner top, residue_zero, zero_mul, zero_add]

theorem residue_fieldPower (top : f.getLsbD 8 = true) (x : Byte) (e : ℕ) : residue f (fieldPower f x e) = residue f x ^ e := by
  induction e with
  | zero => rw [fieldPower, residue_one, pow_zero]
  | succ e ih => rw [fieldPower, residue_gfMul top, ih, pow_succ']

end

/-- Settles O39: evaluating a list evaluates its polynomial, at the residue of the point. -/
theorem evaluationHomomorphism : Obligations.EvaluationHomomorphism := by
  intro a b x c e ha hb
  have top := fieldPoly_irreducible.1
  refine ⟨?sum, ?product, ?monomial⟩ <;> apply residue_injective top
  case sum => rw [residue_peval top, residuePoly_padd, eval_add, residue_xor, residue_peval top, residue_peval top]
  case product =>
    rw [residue_peval top, residuePoly_pmul top a hb.1, eval_mul, residue_gfMul top, residue_peval top, residue_peval top]
  case monomial =>
    rw [residue_peval top, residuePoly_monomial, eval_C_mul, eval_pow, eval_X, residue_gfMul top, residue_fieldPower top]

end Sys2Proof.Machine

/-! PROOFS. 42_polynomial.md R99: the loop of division (O40). `DivisionState` is what every pass keeps; a pass cancels the leading coefficient of the remainder, so that as many passes as the dividend has coefficients are enough. -/

namespace Sys2Proof.Machine

open Polynomial

/-! ## What R99's loop keeps -/

/-- Quotient and remainder between two passes of the division of `a` by `b` (R99): a = q·b + r, both canonical and within R99's bounds. -/
structure DivisionState (f : BitVec 9) (a b q r : Poly) : Prop where
  canonicalQuotient : canonical q
  canonicalRemainder : canonical r
  identity : residuePoly f a = residuePoly f q * residuePoly f b + residuePoly f r
  quotientLength : q.length ≤ a.length - b.length + 1
  remainderLength : r.length ≤ a.length

/-- The coefficient of the monomial that a pass divides off (R99). -/
def divisionTerm (f : BitVec 9) (b r : Poly) : Byte := gfMul f (lead r) (gfInv f (lead b))

/-- The quotient after a pass (R99). -/
def passQuotient (f : BitVec 9) (b q r : Poly) : Poly :=
  padd q (divisionTerm f b r :: List.replicate (r.length - b.length) 0#8)

/-- The remainder after a pass (R99). -/
def passRemainder (f : BitVec 9) (b r : Poly) : Poly := padd r (pmulm f b (divisionTerm f b r) (r.length - b.length))

theorem divLoop_succ (f : BitVec 9) (b : Poly) (fuel : ℕ) (q r : Poly) :
    divLoop f b (gfInv f (lead b)) (fuel + 1) q r =
      if b.length ≤ r.length ∧ r ≠ [0#8] then
        divLoop f b (gfInv f (lead b)) fuel (passQuotient f b q r) (passRemainder f b r)
      else (q, r) := by
  rw [divLoop]
  refine if_congr ?_ rfl rfl
  simp [isZeroP, pzero]

section
variable {f : BitVec 9} {a b q r : Poly}

theorem divisionState_start (ha : canonical a) : DivisionState f a b pzero a where
  canonicalQuotient := canonical_zero
  canonicalRemainder := ha
  identity := by rw [pzero, residuePoly_zero, zero_mul, zero_add]
  quotientLength := Nat.le_add_left 1 _
  remainderLength := le_rfl

theorem lead_mul_divisionTerm (h : irreducibleDegree8 f) (hb : lead b ≠ 0#8) : gfMul f (lead b) (divisionTerm f b r) = lead r := by
  rw [divisionTerm, gfMul_comm h.1, gfMul_assoc h.1, gfMul_comm h.1 _ (lead b), gfMul_gfInv h hb, gfMul_one h.1]

theorem divisionTerm_ne_zero (h : irreducibleDegree8 f) (hb : lead b ≠ 0#8) (hr : lead r ≠ 0#8) : divisionTerm f b r ≠ 0#8 := by
  intro zero
  apply hr
  rw [← lead_mul_divisionTerm h hb, zero, gfMul_zero h.1]

theorem canonical_passRemainder (f : BitVec 9) (b : Poly) (hr : canonical r) : canonical (passRemainder f b r) :=
  canonical_padd hr (canonical_pmulm ..)

theorem length_passRemainder_le (f : BitVec 9) (hr : canonical r) (longer : b.length ≤ r.length) :
    (passRemainder f b r).length ≤ r.length := by
  have bound := length_padd_le hr (canonical_pmulm f b (divisionTerm f b r) (r.length - b.length))
  have shift := length_pmulm_le f b (divisionTerm f b r) (r.length - b.length)
  have nonempty := hr.1
  exact bound.trans (by omega)

/-- A pass cancels the leading coefficient of the remainder. -/
theorem length_passRemainder_lt (h : irreducibleDegree8 f) (hb : lead b ≠ 0#8) (hr : canonical r)
    (longer : b.length ≤ r.length) :
    passRemainder f b r = [0#8] ∨ (passRemainder f b r).length < r.length := by
  refine eq_zero_or_length_lt (canonical_passRemainder f b hr) (length_passRemainder_le f hr longer) ?_
  have nonempty : b.length ≠ 0 := fun empty => hb (by rw [List.length_eq_zero_iff.1 empty]; rfl)
  have inside : ¬ r.length - 1 < r.length - b.length := by omega
  have position : r.length - 1 - (r.length - b.length) = b.length - 1 := by omega
  rw [passRemainder, polyCoefficient_padd, polyCoefficient_pmulm h.1, if_neg inside, position, polyCoefficient_length_sub_one,
    polyCoefficient_length_sub_one, lead_mul_divisionTerm h hb, BitVec.xor_self]

/-- The pass adds c·x^e to the quotient and b·c·x^e to the remainder: the two cancel in q·b + r, where a sum is its own difference. -/
theorem identity_pass (top : f.getLsbD 8 = true) (b q r : Poly) :
    residuePoly f (passQuotient f b q r) * residuePoly f b + residuePoly f (passRemainder f b r) =
      residuePoly f q * residuePoly f b + residuePoly f r := by
  have cancels : residuePoly f (pmulm f b (divisionTerm f b r) (r.length - b.length)) +
      residuePoly f (pmulm f b (divisionTerm f b r) (r.length - b.length)) = 0 := by
    rw [← residuePoly_padd, padd_self (canonical_pmulm ..), residuePoly_zero]
  rw [passQuotient, passRemainder, residuePoly_padd, residuePoly_padd, residuePoly_monomial]
  rw [residuePoly_pmulm top] at cancels ⊢
  linear_combination cancels

theorem divisionState_pass (h : irreducibleDegree8 f) (hb : lead b ≠ 0#8) (state : DivisionState f a b q r)
    (longer : b.length ≤ r.length) (nonzero : r ≠ [0#8]) :
    DivisionState f a b (passQuotient f b q r) (passRemainder f b r) := by
  obtain ⟨canonicalQ, canonicalR, identity, lengthQ, lengthR⟩ := state
  have coefficient := divisionTerm_ne_zero h hb (lead_ne_zero canonicalR (isZeroP_eq_false nonzero))
  have canonicalTerm : canonical (divisionTerm f b r :: List.replicate (r.length - b.length) 0#8) := ⟨by simp, .inr coefficient⟩
  have growth := length_padd_le canonicalQ canonicalTerm
  rw [List.length_cons, List.length_replicate] at growth
  exact {
    canonicalQuotient := canonical_padd canonicalQ canonicalTerm
    canonicalRemainder := canonical_passRemainder f b canonicalR
    identity := identity.trans (identity_pass h.1 b q r).symm
    quotientLength := growth.trans (by omega)
    remainderLength := (length_passRemainder_le f canonicalR longer).trans lengthR }

/-- R99's loop ends with a remainder that is zero or shorter than the divisor. -/
theorem exists_divLoop_eq (h : irreducibleDegree8 f) (hb : lead b ≠ 0#8) (fuel : ℕ) (state : DivisionState f a b q r)
    (enough : r = [0#8] ∨ r.length ≤ fuel) :
    ∃ q' r', divLoop f b (gfInv f (lead b)) fuel q r = (q', r') ∧ DivisionState f a b q' r' ∧
      (r' = [0#8] ∨ r'.length < b.length) := by
  induction fuel generalizing q r with
  | zero =>
    have nonempty := state.canonicalRemainder.1
    exact ⟨q, r, rfl, state, .inl (enough.resolve_right (by omega))⟩
  | succ fuel ih =>
    rw [divLoop_succ]
    split_ifs with more
    · obtain ⟨longer, nonzero⟩ := more
      have fits := enough.resolve_left nonzero
      have shorter := length_passRemainder_lt h hb state.canonicalRemainder longer
      exact ih (divisionState_pass h hb state longer nonzero) (shorter.imp_right fun less => by omega)
    · refine ⟨q, r, rfl, state, ?_⟩
      by_contra! unfinished
      exact more ⟨unfinished.2, unfinished.1⟩

theorem pdivmod_of_length_lt (f : BitVec 9) (shorter : a.length < b.length) : pdivmod f a b = ([0#8], a) := by
  unfold pdivmod
  cases a.length with
  | zero => rfl
  | succ n => rw [divLoop_succ, if_neg fun more => absurd more.1 (not_le.2 shorter)]; rfl

end

/-- Settles O40: what the loop keeps, read at its end. -/
theorem euclideanDivision : Obligations.EuclideanDivision := by
  intro a b ha hb nonzero
  have irreducible := fieldPoly_irreducible
  obtain ⟨q, r, result, ⟨canonicalQ, canonicalR, identity, lengthQ, lengthR⟩, stopped⟩ :=
    exists_divLoop_eq irreducible (lead_ne_zero hb (isZeroP_eq_false nonzero)) a.length (divisionState_start ha) (.inr le_rfl)
  have division : pdivmod fieldPoly a b = (q, r) := result
  have identityOfLists : a = padd (pmul fieldPoly q b) r := by
    refine eq_of_residuePoly_eq irreducible.1 ha (canonical_padd (canonical_pmul ..) canonicalR) ?_
    rw [residuePoly_padd, residuePoly_pmul irreducible.1 _ hb.1, identity]
  rw [division]
  exact ⟨identityOfLists, stopped, canonicalQ, canonicalR, lengthQ, lengthR,
    fun shorter => division.symm.trans (pdivmod_of_length_lt fieldPoly shorter)⟩

end Sys2Proof.Machine

/-! PROOFS. 42_polynomial.md R87–R99: what the P commands complete with (O33–O35). -/

namespace Sys2Proof.Machine

section
variable {s : State}

theorem finish_writeP (d : PReg) (v : Poly) : finish s (.ok (writeP s d v)) = .next (s.wroteP d v) := rfl

/-- A degree that is not negative passes the check of R89 and R98. -/
theorem degree_passes {k : BitVec 12} (h : 0 ≤ k.toInt) : decide (simm12 k < 0) = false := decide_eq_false (not_lt.2 h)

/-- A product passes the capacity check of R96 when an operand is zero or the result fits PMAX. -/
theorem exec_pMul (d : PReg) {a b : PReg} (validA : s.validP a) (validB : s.validP b)
    (passes : (s.valueP a = [0#8] ∨ s.valueP b = [0#8]) ∨ (s.valueP a).length + (s.valueP b).length ≤ 513) :
    exec (.pMul d a b) s = .next (s.wroteP d (pmul fieldPoly (s.valueP a) (s.valueP b))) := by
  have check : (!isZeroP (s.valueP a) && !isZeroP (s.valueP b) &&
      decide (Config.pmax < (s.valueP a).length + (s.valueP b).length - 1)) = false := by
    obtain (zeroA | zeroB) | fits := passes
    · rw [show isZeroP (s.valueP a) = true from beq_iff_eq.2 zeroA]; rfl
    · rw [show isZeroP (s.valueP b) = true from beq_iff_eq.2 zeroB, Bool.not_true, Bool.and_false, Bool.false_and]
    · rw [decide_eq_false (show ¬ 512 < (s.valueP a).length + (s.valueP b).length - 1 by omega), Bool.and_false]
  exact (finish_readP validA _).trans ((finish_readP validB _).trans ((finish_failIf check _ _).trans (finish_writeP d _)))

end

/-- Settles O33: each command's checks pass, and it writes P[d]. -/
theorem polynomialConstruction : Obligations.PolynomialConstruction := by
  intro s d a deg n
  refine ⟨finish_writeP d _, finish_writeP d _, ?zeroCoefficient, ?monomial, ?load⟩
  case zeroCoefficient =>
    intro valid degree zero
    refine (finish_readE valid _).trans ((finish_failIf (degree_passes degree) _ _).trans ?_)
    rw [if_pos zero]
    exact finish_writeP d _
  case monomial =>
    intro valid degree fits nonzero
    have capacity : decide (Config.pmax < deg.toInt.toNat + 1) = false := decide_eq_false (show ¬ 512 < deg.toInt.toNat + 1 by omega)
    refine (finish_readE valid _).trans ((finish_failIf (degree_passes degree) _ _).trans ?_)
    rw [if_neg nonzero, ← toNat_toInt_of_nonneg degree]
    exact (finish_failIf capacity _ _).trans (finish_writeP d _)
  case load =>
    intro positive fits
    have passes : (n.toNat == 0 || decide (Config.pmax < n.toNat)) = false := by
      simp only [Bool.or_eq_false_iff, beq_eq_false_iff_ne, decide_eq_false_iff_not]
      exact ⟨by omega, not_lt.2 fits⟩
    exact (finish_failIf passes _ _).trans (finish_writeP d _)

/-- Settles O34: the commands read P[a]; P.EVAL's value is Horner's by `peval_eq_foldl`. -/
theorem polynomialAccess : Obligations.PolynomialAccess := by
  intro s d b a k valid
  refine ⟨finish_readP valid _, ?zeroTest, ?coefficient, ?value⟩
  case zeroTest =>
    refine (finish_readP valid _).trans ?_
    simp only [isZeroP, pzero, beq_iff_eq]
    rfl
  case coefficient =>
    intro notNegative inside
    have same := toNat_toInt_of_nonneg notNegative
    have passes : (decide (k.toInt < 0) || decide (((s.valueP a).length : Int) - 1 < k.toInt)) = false := by
      simp only [Bool.or_eq_false_iff, decide_eq_false_iff_not]
      omega
    refine (finish_readP valid _).trans ((finish_failIf passes _ _).trans ?_)
    rw [polyCoefficient, if_pos (by omega), ← same]
    exact finish_writeE d _
  case value =>
    intro validB
    rw [← peval_eq_foldl fieldPoly_irreducible.1]
    exact (finish_readP valid _).trans ((finish_readE validB _).trans (finish_writeE d _))

/-- Settles O35: each command's reads and checks pass, and it writes the polynomials of its rule. -/
theorem polynomialArithmetic : Obligations.PolynomialArithmetic := by
  intro s d r a b e deg validA
  refine ⟨?sum, ?zeroProduct, ?product, ?scaled, ?shifted, ?division⟩
  case sum =>
    intro validB
    exact (finish_readP validA _).trans ((finish_readP validB _).trans (finish_writeP d _))
  case zeroProduct =>
    intro validB zero
    rw [← pmul_of_zero (f := fieldPoly) zero]
    exact exec_pMul d validA validB (.inl zero)
  case product => exact fun validB fits => exec_pMul d validA validB (.inr fits)
  case scaled =>
    intro validE
    exact (finish_readP validA _).trans ((finish_readE validE _).trans (finish_writeP d _))
  case shifted =>
    intro validE notNegative fits
    rw [← toNat_toInt_of_nonneg notNegative] at fits ⊢
    exact (finish_readP validA _).trans ((finish_readE validE _).trans ((finish_failIf (degree_passes notNegative) _ _).trans
      ((finish_failIf (decide_eq_false (not_lt.2 fits)) _ _).trans (finish_writeP d _))))
  case division =>
    intro validB nonzero distinct
    exact (exec_pDiv distinct a b).trans ((finish_readP validA _).trans ((finish_readP validB _).trans
      (finish_failIf (isZeroP_eq_false nonzero) _ _)))

end Sys2Proof.Machine

/-! PROOFS. 43_geometry.md R104–R108: what T.QQ builds (O41) and what T.MAP stores (O42). The lemmas before them run a command over a step that answers, whatever the step, and read PT after points were stored. -/

namespace Sys2Proof.Machine

/-! ## Running a command over one of its steps (R54, R144) -/

section
variable {s : State} {α : Type} {r : Except CmdError α}

theorem finish_bind_ok {a : α} (h : r = .ok a) (rest : α → Except CmdError State) :
    finish s (r >>= rest) = finish s (rest a) := by
  rw [h]; rfl

theorem finish_bind_error {x : CmdError} (h : r = .error x) (rest : α → Except CmdError State) :
    finish s (r >>= rest) = .next (s.failed x.kind.code x.info0 x.info1) := by
  rw [h]; rfl

theorem readT_of_valid (valid : s.tv = true) : readT s = .ok s.t := if_pos valid

theorem checkPointCount_of_le {n : ℕ} (fits : n ≤ 256) : checkPointCount n = .ok () := by
  rcases checkPointCount_cases n with ⟨-, h⟩ | ⟨exceeds, -⟩
  · exact h
  · omega

end

/-! ## Building a transform (R104) -/

/-- The transform from the first quadrilateral of Q to the unit square (R104). -/
def quadToSquare (q : Vector F64 16) : Transform := adj (sq2q q[0] q[1] q[2] q[3] q[4] q[5] q[6] q[7])

/-- The transform from the unit square to the second quadrilateral of Q (R104). -/
def squareToQuad (q : Vector F64 16) : Transform := sq2q q[8] q[9] q[10] q[11] q[12] q[13] q[14] q[15]

/-- The transform that T.QQ stores where it is finite (R104). -/
def quadToQuad (q : Vector F64 16) : Transform := times (squareToQuad q) (quadToSquare q)

/-- The three checks of R104 raise one error, so their order does not show. -/
theorem build_eq_ite (q : Vector F64 16) :
    build q =
      if (quadToSquare q).allFinite = true ∧ (squareToQuad q).allFinite = true ∧ (quadToQuad q).allFinite = true then
        .ok (quadToQuad q)
      else .error (geometryError 1 0 0) := by
  have steps : build q = (do
      failIf (!(quadToSquare q).allFinite) (geometryError 1 0 0)
      failIf (!(squareToQuad q).allFinite) (geometryError 1 0 0)
      failIf (!(quadToQuad q).allFinite) (geometryError 1 0 0)
      return quadToQuad q) := rfl
  rw [steps]
  cases (quadToSquare q).allFinite with
  | false => rfl
  | true =>
    cases (squareToQuad q).allFinite with
    | false => rfl
    | true => cases (quadToQuad q).allFinite <;> rfl

theorem build_error {q : Vector F64 16} (degenerate : (quadToSquare q).allFinite = false ∨ (squareToQuad q).allFinite = false ∨
    (quadToQuad q).allFinite = false) : build q = .error (geometryError 1 0 0) := by
  rw [build_eq_ite, if_neg]
  rintro ⟨toSquare, toQuad, product⟩
  simp [toSquare, toQuad, product] at degenerate

/-- Settles O41: T.QQ is the build and one write of T. -/
theorem transformBuild : Obligations.TransformBuild := by
  intro s
  refine ⟨fun toSquare toQuad product => ?_, fun degenerate => finish_bind_error (build_error degenerate) _⟩
  exact finish_bind_ok ((build_eq_ite s.q).trans (if_pos ⟨toSquare, toQuad, product⟩)) _

/-! ## Points in PT (R22, R108) -/

theorem coordinates_getD (pts : List Point) {p : ℕ} (hp : p < pts.length) :
    (pts.flatMap fun pt => [pt.1, pt.2]).getD (2 * p) 0#64 = pts[p].1 ∧
    (pts.flatMap fun pt => [pt.1, pt.2]).getD (2 * p + 1) 0#64 = pts[p].2 := by
  induction pts generalizing p with
  | nil => exact absurd hp (Nat.not_lt_zero p)
  | cons pt pts ih =>
    cases p with
    | zero => exact ⟨rfl, rfl⟩
    | succ p => exact ih (Nat.lt_of_succ_lt_succ hp)

/-- Point p of PT after points were stored there (R22). -/
theorem storePoints_pt {s : State} (canonical : s.mem.wf) {pts : List Point} {p : ℕ} (hp : p < pts.length) :
    ((storePoints s pts).pt (2 * p), (storePoints s pts).pt (2 * p + 1)) = pts[p] := by
  obtain ⟨first, second⟩ := coordinates_getD pts hp
  have read (k : ℕ) (hk : k < 2 * pts.length) :
      (storePoints s pts).pt k = (pts.flatMap fun pt => [pt.1, pt.2]).getD k 0#64 := by
    rw [State.pt, storePoints_mem, readF64_writePoints _ canonical, length_coordinates, if_pos (by omega), Nat.sub_zero]
  rw [read _ (by omega), read _ (by omega), first, second]

theorem storePoints_read {s : State} {pts : List Point} {a : ℕ} (outside : ¬ (ptAddr 0 ≤ a ∧ a < ptAddr (2 * pts.length))) :
    (storePoints s pts).mem.read a = s.mem.read a := by
  rw [storePoints_mem, read_writePoints_of_outside]
  rw [length_coordinates, Nat.zero_add]
  omega

@[simp] theorem length_points (s : State) (n : ℕ) : (s.points n).length = n := by simp [State.points]

@[simp] theorem getElem_points (s : State) {n p : ℕ} (hp : p < (s.points n).length) :
    (s.points n)[p] = (s.pt (2 * p), s.pt (2 * p + 1)) := by simp [State.points]

theorem checkFinite_ok (row : ℕ) {pts : List Point} (finite : ∀ pt ∈ pts, finitePoint pt = true) (p : ℕ) :
    checkFinite row p pts = .ok () := by
  induction pts generalizing p with
  | nil => rfl
  | cons pt pts ih =>
    rw [checkFinite, if_pos (finite pt List.mem_cons_self)]
    exact ih (fun q hq => finite q (List.mem_cons_of_mem pt hq)) (p + 1)

/-- Settles O42: T.MAP's checks pass on the mapped points, and they are what it stores. -/
theorem pointMapping : Obligations.PointMapping := by
  intro s n canonical valid fits finite
  have count : ((s.points n.toNat).map (mapPt s.t)).length = n.toNat := by simp
  have allFinite : ∀ pt ∈ (s.points n.toNat).map (mapPt s.t), finitePoint pt = true := by
    simpa [State.points] using finite
  refine ⟨complete (storePoints s ((s.points n.toNat).map (mapPt s.t))), ?result, rfl, fun p hp => ?mapped, fun a outside => ?frame⟩
  case result =>
    exact (finish_bind_ok (readT_of_valid valid) _).trans ((finish_bind_ok (checkPointCount_of_le fits) _).trans
      (finish_bind_ok (checkFinite_ok 0 allFinite 0) _))
  case mapped =>
    refine (storePoints_pt canonical (count.symm ▸ hp)).trans ?_
    simp
  case frame => exact storePoints_read (count.symm ▸ outside)

end Sys2Proof.Machine

/-! PROOFS. 00_scope.md R11: a binary64 encoding is a sign before a magnitude, and a finite one stands for a significand at the exponent of its last place. What the operations of R100 make of encodings is read off these. -/

namespace Sys2Proof.Machine

/-! ## Sign and magnitude of an encoding -/

theorem toNat_signed (neg : Bool) {m : ℕ} (hm : m < 2 ^ 63) : (signed neg m).toNat = neg.toNat * 2 ^ 63 + m := by
  have low : (BitVec.ofNat 63 m).toNat = m := by rw [BitVec.toNat_ofNat, Nat.mod_eq_of_lt hm]
  rw [signed, BitVec.toNat_append, low, BitVec.toNat_ofBool, ← Nat.shiftLeft_add_eq_or_of_lt hm, Nat.shiftLeft_eq]

theorem exists_eq_signed (v : F64) : ∃ neg m, m < 2 ^ 63 ∧ v = signed neg m := by
  have low : v.toNat % 2 ^ 63 < 2 ^ 63 := Nat.mod_lt _ (by positivity)
  refine ⟨v.getLsbD 63, v.toNat % 2 ^ 63, low, BitVec.eq_of_toNat_eq ?_⟩
  have width := v.isLt
  rw [toNat_signed _ low, BitVec.getLsbD, Nat.toNat_testBit]
  omega

section
variable {neg : Bool} {m : ℕ}

theorem signed_exponent (hm : m < 2 ^ 63) : ((signed neg m).extractLsb' 52 11).toNat = m / 2 ^ 52 := by
  have sign := Bool.toNat_lt neg
  rw [BitVec.extractLsb'_toNat, toNat_signed neg hm, Nat.shiftRight_eq_div_pow]
  omega

theorem signed_fraction (hm : m < 2 ^ 63) : ((signed neg m).extractLsb' 0 52).toNat = m % 2 ^ 52 := by
  rw [BitVec.extractLsb'_toNat, toNat_signed neg hm, Nat.shiftRight_zero]
  omega

theorem signed_sign (neg : Bool) (m : ℕ) : (signed neg m).getLsbD 63 = neg := by
  rw [signed, BitVec.getLsbD_append]
  simp

theorem signed_even (hm : m < 2 ^ 63) (even : m % 2 = 0) : (signed neg m).getLsbD 0 = false := by
  rw [BitVec.getLsbD, toNat_signed neg hm, Nat.testBit_zero, decide_eq_false_iff_not]
  omega

theorem fneg_signed (neg : Bool) (m : ℕ) : fneg (signed neg m) = signed (!neg) m := by
  have mask : 0x8000000000000000#64 = BitVec.ofBool true ++ 0#63 := by decide
  rw [fneg, signed, signed, mask, BitVec.xor_append, BitVec.xor_zero, BitVec.ofBool_xor_ofBool, Bool.xor_true]

theorem isZeroF_signed (hm : m < 2 ^ 63) : isZeroF (signed neg m) = true ↔ m = 0 := by
  rw [isZeroF, beq_iff_eq, ← BitVec.toNat_inj, BitVec.extractLsb'_toNat, toNat_signed neg hm, Nat.shiftRight_zero,
    show (0#63).toNat = 0 from rfl]
  omega

theorem finite_signed (hm : m < 2 ^ 63) : finite (signed neg m) = true ↔ m < 2047 * 2 ^ 52 := by
  rw [finite, bne_iff_ne, ne_eq, ← BitVec.toNat_inj, signed_exponent hm, show (2047#11).toNat = 2047 from rfl]
  omega

theorem unpack_signed (hm : m < 2 ^ 63) :
    unpack (signed neg m) =
      if m / 2 ^ 52 = 2047 then (if m % 2 ^ 52 = 0 then .inf neg else .nan)
      else if m / 2 ^ 52 = 0 then .fin neg (m % 2 ^ 52) (-1074)
      else .fin neg (2 ^ 52 + m % 2 ^ 52) ((m / 2 ^ 52 : ℕ) - 1075) := by
  simp only [unpack, signed_sign, signed_exponent hm, signed_fraction hm]

end

/-! ## Significand and exponent of a finite value -/

/-- A significand at the exponent of its last place: 53 bits, all of them used unless the exponent is the least (R100, subnormals kept). -/
structure Normalized (mant : ℕ) (exp : ℤ) : Prop where
  least : -1074 ≤ exp
  fits : mant < 2 ^ 53
  full : exp = -1074 ∨ 2 ^ 52 ≤ mant

/-- The magnitude that encodes a significand: a full one carries its leading bit into the exponent field (R11). -/
def magnitudeOf (mant : ℕ) (exp : ℤ) : ℕ := (exp + 1074).toNat * 2 ^ 52 + mant

section
variable {neg : Bool} {mant : ℕ} {exp : ℤ}

theorem magnitudeOf_lt (fits : mant < 2 ^ 53) (high : exp ≤ 971) : magnitudeOf mant exp < 2047 * 2 ^ 52 := by
  unfold magnitudeOf
  omega

theorem unpack_magnitudeOf (h : Normalized mant exp) (high : exp ≤ 971) :
    unpack (signed neg (magnitudeOf mant exp)) = .fin neg mant exp := by
  obtain ⟨least, fits, full⟩ := h
  have small := magnitudeOf_lt fits high
  rw [unpack_signed (by omega)]
  unfold magnitudeOf at small ⊢
  rw [if_neg (by omega)]
  split_ifs with zero
  · congr 1 <;> omega
  · congr 1 <;> omega

theorem unpack_signed_zero (neg : Bool) : unpack (signed neg 0) = .fin neg 0 (-1074) := by cases neg <;> decide

theorem eq_of_unpack_fin {v : F64} (h : unpack v = .fin neg mant exp) :
    Normalized mant exp ∧ exp ≤ 971 ∧ v = signed neg (magnitudeOf mant exp) := by
  obtain ⟨n, m, hm, rfl⟩ := exists_eq_signed v
  rw [unpack_signed hm] at h
  split_ifs at h with special subnormal
  · cases h
    refine ⟨⟨le_rfl, by omega, .inl rfl⟩, by omega, congrArg _ ?_⟩
    unfold magnitudeOf
    omega
  · cases h
    refine ⟨⟨by omega, by omega, .inr (by omega)⟩, by omega, congrArg _ ?_⟩
    unfold magnitudeOf
    omega

theorem unpack_of_finite {v : F64} (h : finite v = true) : ∃ neg mant exp, unpack v = .fin neg mant exp := by
  obtain ⟨n, m, hm, rfl⟩ := exists_eq_signed v
  have small := (finite_signed hm).1 h
  rw [unpack_signed hm, if_neg (by omega)]
  split_ifs <;> exact ⟨_, _, _, rfl⟩

theorem finite_of_unpack {v : F64} (h : unpack v = .fin neg mant exp) : finite v = true := by
  obtain ⟨normalized, high, rfl⟩ := eq_of_unpack_fin h
  have small := magnitudeOf_lt normalized.fits high
  exact (finite_signed (by omega)).2 small

theorem unpack_infBits (neg : Bool) : unpack (infBits neg) = .inf neg := by
  rw [infBits, unpack_signed (by decide), if_pos (by decide), if_pos (by decide)]

theorem unpack_nanBits : unpack nanBits = .nan := by decide

theorem unpack_of_isZeroF {v : F64} (h : isZeroF v = true) : ∃ neg, unpack v = .fin neg 0 (-1074) := by
  obtain ⟨n, m, hm, rfl⟩ := exists_eq_signed v
  obtain rfl := (isZeroF_signed hm).1 h
  exact ⟨n, unpack_signed_zero n⟩

theorem isZeroF_iff_of_unpack {v : F64} (h : unpack v = .fin neg mant exp) : isZeroF v = true ↔ mant = 0 := by
  obtain ⟨normalized, high, rfl⟩ := eq_of_unpack_fin h
  have small := magnitudeOf_lt normalized.fits high
  obtain ⟨least, fits, full⟩ := normalized
  rw [isZeroF_signed (by omega), magnitudeOf]
  omega

theorem unpack_fneg_fin {v : F64} (h : unpack v = .fin neg mant exp) : unpack (fneg v) = .fin (!neg) mant exp := by
  obtain ⟨normalized, high, rfl⟩ := eq_of_unpack_fin h
  rw [fneg_signed, unpack_magnitudeOf normalized high]

theorem unpack_fneg_nan {v : F64} (h : unpack v = .nan) : unpack (fneg v) = .nan := by
  obtain ⟨n, m, hm, rfl⟩ := exists_eq_signed v
  rw [fneg_signed]
  rw [unpack_signed hm] at h ⊢
  split_ifs at h ⊢
  rfl

end

/-! ## The value of an encoding (R11) -/

/-- A sign as a factor. -/
def signFactor (neg : Bool) : ℚ := if neg then -1 else 1

@[simp] theorem abs_signFactor (neg : Bool) : |signFactor neg| = 1 := by cases neg <;> simp [signFactor]

@[simp] theorem signFactor_mul_self (neg : Bool) : signFactor neg * signFactor neg = 1 := by cases neg <;> simp [signFactor]

theorem signFactor_ne_zero (neg : Bool) : signFactor neg ≠ 0 := by cases neg <;> simp [signFactor]

theorem signFactor_not (neg : Bool) : signFactor (!neg) = -signFactor neg := by cases neg <;> simp [signFactor]

theorem signFactor_bne (n m : Bool) : signFactor (n != m) = signFactor n * signFactor m := by
  cases n <;> cases m <;> simp [signFactor]

theorem signFactor_inv (neg : Bool) : (signFactor neg)⁻¹ = signFactor neg := by cases neg <;> simp [signFactor]

/-- A common sign does not show in a distance. -/
theorem abs_signFactor_mul_sub (neg : Bool) (y z : ℚ) : |signFactor neg * y - z| = |y - signFactor neg * z| := by
  calc |signFactor neg * y - z| = |signFactor neg * (y - signFactor neg * z)| := by
        rw [mul_sub, ← mul_assoc, signFactor_mul_self, one_mul]
    _ = |y - signFactor neg * z| := by rw [abs_mul, abs_signFactor, one_mul]

theorem realValue_of_unpack {v : F64} {neg : Bool} {mant : ℕ} {exp : ℤ} (h : unpack v = .fin neg mant exp) :
    realValue v = signFactor neg * (mant * 2 ^ exp) := by
  rw [realValue, h, ← mul_assoc]
  rfl

theorem realValue_fneg {v : F64} (h : finite v = true) : realValue (fneg v) = -realValue v := by
  obtain ⟨neg, mant, exp, unpacked⟩ := unpack_of_finite h
  rw [realValue_of_unpack unpacked, realValue_of_unpack (unpack_fneg_fin unpacked), signFactor_not, neg_mul]

theorem finite_fneg {v : F64} (h : finite v = true) : finite (fneg v) = true := by
  obtain ⟨neg, mant, exp, unpacked⟩ := unpack_of_finite h
  exact finite_of_unpack (unpack_fneg_fin unpacked)

end Sys2Proof.Machine

/-! PROOFS. 43_geometry.md R100: rounding to binary64 (O43) and the corners of its arithmetic (O44). `LastPlace x k` says which exponent the last place of a rounded x has; in units of it the finite values are integers, or below 2^52 (`multiple_or_small`), so that the nearest integer is the nearest value. -/

namespace Sys2Proof.Machine

/-! ## Rounding a fraction to an integer -/

theorem roundEven_one (n : ℕ) : roundEven n 1 = n := by simp [roundEven, Nat.mod_one]

theorem le_roundEven (n d : ℕ) : n / d ≤ roundEven n d := by
  simp only [roundEven]
  split_ifs <;> omega

theorem roundEven_le (n d : ℕ) : roundEven n d ≤ n / d + 1 := by
  simp only [roundEven]
  split_ifs <;> omega

/-- How far the integers lie from q + t, on either side of it. -/
theorem abs_int_sub (q j : ℤ) {t : ℚ} (ht : 0 ≤ t) (ht' : t < 1) :
    (j ≤ q → |(j : ℚ) - (q + t)| = q + t - j) ∧ (q < j → |(j : ℚ) - (q + t)| = j - (q + t)) := by
  constructor <;> intro h
  · have le : (j : ℚ) ≤ q := by exact_mod_cast h
    rw [abs_of_nonpos (by linarith), neg_sub]
  · have le : (q : ℚ) + 1 ≤ j := by exact_mod_cast h
    rw [abs_of_nonneg (by linarith)]

/-- The integer nearest to q + t is q or q + 1, as t lies below or above a half; at a half both are. -/
theorem nearest_int (q j : ℤ) {t : ℚ} (ht : 0 ≤ t) (ht' : t < 1) :
    (t < 1 / 2 → j = q ∨ |(q : ℚ) - (q + t)| < |(j : ℚ) - (q + t)|) ∧
    (1 / 2 < t → j = q + 1 ∨ |((q + 1 : ℤ) : ℚ) - (q + t)| < |(j : ℚ) - (q + t)|) ∧
    (t = 1 / 2 → |(q : ℚ) - (q + t)| = 1 / 2 ∧ |((q + 1 : ℤ) : ℚ) - (q + t)| = 1 / 2 ∧ 1 / 2 ≤ |(j : ℚ) - (q + t)|) := by
  have distance := abs_int_sub q j ht ht'
  rw [(abs_int_sub q q ht ht').1 le_rfl, (abs_int_sub q (q + 1) ht ht').2 (by omega)]
  push_cast
  rcases le_or_gt j q with left | right
  · have le : (j : ℚ) ≤ q := by exact_mod_cast left
    rw [distance.1 left]
    refine ⟨fun low => ?_, fun high => .inr (by linarith), fun tie => ⟨by linarith, by linarith, by linarith⟩⟩
    rcases left.eq_or_lt with same | less
    · exact .inl same
    · have less' : (j : ℚ) < q := by exact_mod_cast less
      exact .inr (by linarith)
  · have le : (q : ℚ) + 1 ≤ j := by exact_mod_cast right
    rw [distance.2 right]
    refine ⟨fun low => .inr (by linarith), fun high => ?_, fun tie => ⟨by linarith, by linarith, by linarith⟩⟩
    rcases (show q + 1 ≤ j from right).eq_or_lt with same | less
    · exact .inl same.symm
    · have less' : (q : ℚ) + 1 < j := by exact_mod_cast less
      exact .inr (by linarith)

/-- Every other integer is further from the fraction, or as far with the rounded one even. -/
theorem roundEven_nearest (n : ℕ) {d : ℕ} (hd : d ≠ 0) (j : ℤ) :
    j = roundEven n d ∨ |((roundEven n d : ℤ) : ℚ) - n / d| < |(j : ℚ) - n / d| ∨
      (|((roundEven n d : ℤ) : ℚ) - n / d| = |(j : ℚ) - n / d| ∧ roundEven n d % 2 = 0) := by
  have positive : (0 : ℚ) < d := by positivity
  have parts : (n : ℚ) / d = ((n / d : ℕ) : ℤ) + (n % d : ℕ) / (d : ℚ) := by
    rw [div_eq_iff positive.ne', add_mul, div_mul_cancel₀ _ positive.ne']
    rw [Int.cast_natCast, ← Nat.cast_mul, ← Nat.cast_add, Nat.div_add_mod']
  have fraction : (n % d : ℕ) / (d : ℚ) < 1 := (div_lt_one positive).2 (by exact_mod_cast Nat.mod_lt n (Nat.pos_of_ne_zero hd))
  obtain ⟨low, high, tie⟩ := nearest_int (n / d : ℕ) j (by positivity) fraction
  rw [← parts] at low high tie
  simp only [roundEven]
  split_ifs with below above
  · have half : (n % d : ℕ) / (d : ℚ) < 1 / 2 := by
      rw [div_lt_div_iff₀ positive two_pos, one_mul, mul_comm]
      exact_mod_cast below
    exact (low half).imp_right .inl
  · have half : 1 / 2 < (n % d : ℕ) / (d : ℚ) := by
      rw [div_lt_div_iff₀ two_pos positive, one_mul, mul_comm _ (2 : ℚ)]
      exact_mod_cast above
    exact (high half).imp_right .inl
  · have half : (n % d : ℕ) / (d : ℚ) = 1 / 2 := by
      rw [div_eq_div_iff positive.ne' two_ne_zero, one_mul, mul_comm]
      exact_mod_cast (show 2 * (n % d) = d by omega)
    obtain ⟨floor, ceiling, least⟩ := tie half
    have tied : |(((n / d + n / d % 2 : ℕ) : ℤ) : ℚ) - n / d| = 1 / 2 := by
      rcases Nat.mod_two_eq_zero_or_one (n / d) with even | odd
      · rw [even]; exact floor
      · rw [odd]; exact ceiling
    rw [tied]
    rcases least.eq_or_lt with same | less
    · exact .inr (.inr ⟨same, by omega⟩)
    · exact .inr (.inl less)

/-- A rounding stays below an even bound exactly where the fraction stays half a place below it. -/
theorem roundEven_lt_iff (n : ℕ) {d N : ℕ} (hd : d ≠ 0) (even : N % 2 = 0) :
    roundEven n d < N ↔ 2 * n + d < 2 * N * d := by
  have parts : n = d * (n / d) + n % d := (Nat.div_add_mod n d).symm
  have rest := Nat.mod_lt n (Nat.pos_of_ne_zero hd)
  simp only [roundEven]
  generalize n / d = q at *
  generalize n % d = r at *
  subst parts
  rcases lt_trichotomy (q + 1) N with less | rfl | greater
  · have room : (q + 2) * d ≤ N * d := Nat.mul_le_mul_right d less
    have below : 2 * (d * q + r) + d < 2 * N * d := by linarith
    simp only [below, iff_true]
    split_ifs <;> omega
  · have half : 2 * (d * q + r) + d < 2 * (q + 1) * d ↔ 2 * r < d := by
      constructor <;> intro h <;> linarith
    rw [half]
    split_ifs <;> omega
  · have reached : N * d ≤ q * d := Nat.mul_le_mul_right d (by omega)
    have notBelow : ¬ 2 * (d * q + r) + d < 2 * N * d := by linarith
    simp only [notBelow, iff_false]
    split_ifs <;> omega

/-! ## The exponent of the last place -/

theorem two_zpow_le {a b : ℤ} (h : a ≤ b) : (2 : ℚ) ^ a ≤ 2 ^ b := zpow_le_zpow_right₀ one_le_two h

theorem two_zpow_split {a b : ℤ} (h : b ≤ a) : (2 : ℚ) ^ a = 2 ^ (a - b).toNat * 2 ^ b := by
  rw [← zpow_natCast, ← zpow_add₀ two_ne_zero]
  congr 1
  omega

/-- `x` has at most 53 bits before the place 2^k, and exactly 53 unless that is the least exponent (R100). -/
structure LastPlace (x : ℚ) (k : ℤ) : Prop where
  least : -1074 ≤ k
  fits : x < 2 ^ (k + 53)
  full : k = -1074 ∨ 2 ^ (k + 52) ≤ x

theorem LastPlace.unique {x : ℚ} {k l : ℤ} (hk : LastPlace x k) (hl : LastPlace x l) : k = l := by
  have order {k l : ℤ} (hk : LastPlace x k) (hl : LastPlace x l) : l ≤ k := by
    by_contra! less
    have below : (2 : ℚ) ^ (k + 53) ≤ 2 ^ (l + 52) := two_zpow_le (by omega)
    have least := hk.least
    rcases hl.full with rfl | full
    · omega
    · exact absurd hk.fits (not_lt.2 (below.trans full))
  exact le_antisymm (order hl hk) (order hk hl)

theorem Normalized.lastPlace {mant : ℕ} {exp : ℤ} (h : Normalized mant exp) : LastPlace (mant * 2 ^ exp) exp where
  least := h.least
  fits := by
    rw [zpow_add₀ two_ne_zero, mul_comm]
    gcongr
    exact_mod_cast h.fits
  full := h.full.imp_right fun full => by
    rw [zpow_add₀ two_ne_zero, mul_comm]
    gcongr
    exact_mod_cast full

section
variable {num den : ℕ} {e : ℤ}

theorem inUnits_den_ne_zero (hd : den ≠ 0) (e k : ℤ) : (inUnits num den e k).2 ≠ 0 := by
  unfold inUnits
  split_ifs
  · exact hd
  · positivity

theorem inUnits_value (num den : ℕ) (e k : ℤ) :
    ((inUnits num den e k).1 : ℚ) / (inUnits num den e k).2 * 2 ^ k = num / den * 2 ^ e := by
  unfold inUnits
  split_ifs with h
  · rw [two_zpow_split h]
    push_cast
    ring
  · rw [two_zpow_split (le_of_not_ge h)]
    push_cast
    field_simp

theorem log2_bounds {n : ℕ} (hn : n ≠ 0) : (2 : ℚ) ^ (n.log2 : ℤ) ≤ n ∧ (n : ℚ) < 2 ^ ((n.log2 : ℤ) + 1) := by
  constructor
  · exact_mod_cast Nat.log2_self_le hn
  · exact_mod_cast Nat.lt_log2_self

/-- A fraction lies within a factor 2 of 2^(log2 num − log2 den). -/
theorem fraction_bounds (hn : num ≠ 0) (hd : den ≠ 0) (e : ℤ) :
    (2 : ℚ) ^ ((num.log2 : ℤ) - den.log2 + e - 1) ≤ num / den * 2 ^ e ∧
    (num / den * 2 ^ e : ℚ) < 2 ^ ((num.log2 : ℤ) - den.log2 + e + 1) := by
  obtain ⟨numLow, numHigh⟩ := log2_bounds hn
  obtain ⟨denLow, denHigh⟩ := log2_bounds hd
  have positive : (0 : ℚ) < den := by positivity
  have split (a b : ℤ) : (2 : ℚ) ^ (a - b + e) = 2 ^ a / 2 ^ b * 2 ^ e := by
    rw [zpow_add₀ two_ne_zero, zpow_sub₀ two_ne_zero]
  constructor
  · rw [show (num.log2 : ℤ) - den.log2 + e - 1 = num.log2 - (den.log2 + 1) + e by ring, split]
    gcongr
  · rw [show (num.log2 : ℤ) - den.log2 + e + 1 = (num.log2 + 1) - den.log2 + e by ring, split]
    gcongr

/-- The whole units of 2^k in a value are below 2^n exactly where the value is below 2^(k + n). -/
theorem inUnits_div_lt_iff (num : ℕ) (hd : den ≠ 0) (e k : ℤ) (n : ℕ) :
    (inUnits num den e k).1 / (inUnits num den e k).2 < 2 ^ n ↔ (num / den * 2 ^ e : ℚ) < 2 ^ (k + n) := by
  have positive := Nat.pos_of_ne_zero (inUnits_den_ne_zero (num := num) hd e k)
  have positive' : (0 : ℚ) < (inUnits num den e k).2 := by exact_mod_cast positive
  rw [Nat.div_lt_iff_lt_mul positive, ← inUnits_value num den e k, zpow_add₀ two_ne_zero, mul_comm (2 ^ k : ℚ),
    mul_lt_mul_iff_left₀ (by positivity), div_lt_iff₀ positive', zpow_natCast]
  exact_mod_cast Iff.rfl

/-- The exponent that the model gives a value is that of its last place. -/
theorem lastPlace_ulpExp (hn : num ≠ 0) (hd : den ≠ 0) (e : ℤ) : LastPlace (num / den * 2 ^ e) (ulpExp num den e) := by
  obtain ⟨low, high⟩ := fraction_bounds hn hd e
  simp only [ulpExp, inUnits_div_lt_iff num hd]
  split_ifs with fits
  · refine ⟨le_max_left .., fits, ?_⟩
    rcases max_choice (-1074) ((num.log2 : ℤ) - den.log2 + e - 53) with least | first
    · exact .inl least
    · exact .inr ((two_zpow_le (by rw [first]; omega)).trans low)
  · refine ⟨by omega, high.trans_le (two_zpow_le (by omega)), .inr ?_⟩
    exact (two_zpow_le (by omega)).trans (not_lt.1 fits)

/-! ## Rounding to binary64 -/

/-- A value in units of its last place, rounded (R100). -/
def roundedUnits (num den : ℕ) (e : ℤ) : ℕ :=
  roundEven (inUnits num den e (ulpExp num den e)).1 (inUnits num den e (ulpExp num den e)).2

theorem roundRatio_of_ne_zero (neg : Bool) (hn : num ≠ 0) (den : ℕ) (e : ℤ) :
    roundRatio neg num den e =
      if 2047 * 2 ^ 52 ≤ magnitudeOf (roundedUnits num den e) (ulpExp num den e) then infBits neg
      else signed neg (magnitudeOf (roundedUnits num den e) (ulpExp num den e)) := if_neg hn

theorem roundedUnits_le (hn : num ≠ 0) (hd : den ≠ 0) (e : ℤ) : roundedUnits num den e ≤ 2 ^ 53 :=
  (roundEven_le ..).trans ((inUnits_div_lt_iff num hd e _ 53).2 (lastPlace_ulpExp hn hd e).fits)

theorem roundedUnits_full (hn : num ≠ 0) (hd : den ≠ 0) (e : ℤ) :
    ulpExp num den e = -1074 ∨ 2 ^ 52 ≤ roundedUnits num den e := by
  refine (lastPlace_ulpExp hn hd e).full.imp_right fun full => ?_
  exact (not_lt.1 fun below => full.not_gt ((inUnits_div_lt_iff num hd e _ 52).1 below)).trans (le_roundEven ..)

/-- The units are the integer nearest to the value in units, ties to even. -/
theorem roundedUnits_nearest (num : ℕ) (hd : den ≠ 0) (e j : ℤ) :
    j = roundedUnits num den e ∨
      |(roundedUnits num den e : ℚ) * 2 ^ ulpExp num den e - num / den * 2 ^ e| < |(j : ℚ) * 2 ^ ulpExp num den e - num / den * 2 ^ e| ∨
      (|(roundedUnits num den e : ℚ) * 2 ^ ulpExp num den e - num / den * 2 ^ e| = |(j : ℚ) * 2 ^ ulpExp num den e - num / den * 2 ^ e| ∧
        roundedUnits num den e % 2 = 0) := by
  have unit : (0 : ℚ) < 2 ^ ulpExp num den e := by positivity
  simp only [← inUnits_value num den e (ulpExp num den e), ← sub_mul, abs_mul, abs_of_pos unit, mul_lt_mul_iff_left₀ unit,
    mul_left_inj' unit.ne']
  exact roundEven_nearest _ (inUnits_den_ne_zero hd _ _) j

/-- A rounding that carries out of 53 bits is the next power of two, at the next exponent. -/
theorem unpack_rounded {q : ℕ} {k : ℤ} (neg : Bool) (least : -1074 ≤ k) (fits : q ≤ 2 ^ 53) (full : k = -1074 ∨ 2 ^ 52 ≤ q)
    (small : magnitudeOf q k < 2047 * 2 ^ 52) :
    ∃ mant exp, unpack (signed neg (magnitudeOf q k)) = .fin neg mant exp ∧ (mant * 2 ^ exp : ℚ) = q * 2 ^ k := by
  unfold magnitudeOf at small
  rcases fits.eq_or_lt with carry | fits
  · have next : magnitudeOf q k = magnitudeOf (2 ^ 52) (k + 1) := by unfold magnitudeOf; omega
    rw [next, carry]
    refine ⟨2 ^ 52, k + 1, unpack_magnitudeOf ⟨by omega, by omega, by omega⟩ (by omega), ?_⟩
    rw [zpow_add_one₀ two_ne_zero]
    push_cast
    ring
  · exact ⟨q, k, unpack_magnitudeOf ⟨least, fits, full⟩ (by omega), rfl⟩

/-- The overflow threshold lies half a last place below 2^1024. -/
theorem overflow_iff (hn : num ≠ 0) (hd : den ≠ 0) (e : ℤ) :
    2047 * 2 ^ 52 ≤ magnitudeOf (roundedUnits num den e) (ulpExp num den e) ↔ (2 ^ 1024 - 2 ^ 970 : ℚ) ≤ num / den * 2 ^ e := by
  have fits := roundedUnits_le hn hd e
  have full := roundedUnits_full hn hd e
  have place := lastPlace_ulpExp hn hd e
  have threshold : (2 ^ 1024 - 2 ^ 970 : ℚ) = (2 ^ 54 - 1) / 2 * 2 ^ (971 : ℤ) := by
    rw [show (2 : ℚ) ^ 1024 = 2 ^ 54 * 2 ^ 970 by rw [← pow_add], show (2 : ℚ) ^ (971 : ℤ) = 2 * 2 ^ 970 by rw [← pow_succ']; rfl]
    generalize (2 : ℚ) ^ 970 = unit
    ring
  unfold magnitudeOf
  rw [threshold]
  rcases lt_trichotomy (ulpExp num den e) 971 with lower | top | higher
  · refine iff_of_false (by omega) (not_le.2 (place.fits.trans_le ((two_zpow_le (b := 52 + 971) (by omega)).trans ?_)))
    rw [zpow_add₀ two_ne_zero]
    gcongr
    norm_num
  · have positive := Nat.pos_of_ne_zero (inUnits_den_ne_zero (num := num) hd e (ulpExp num den e))
    have units : (2 ^ 54 - 1) / 2 * 2 ^ (971 : ℤ) ≤ (num / den * 2 ^ e : ℚ) ↔ ¬ roundedUnits num den e < 2 ^ 53 := by
      rw [roundedUnits, roundEven_lt_iff _ positive.ne' (by norm_num), ← inUnits_value num den e (ulpExp num den e)]
      generalize inUnits num den e (ulpExp num den e) = f at positive ⊢
      have positive' : (0 : ℚ) < f.2 := by exact_mod_cast positive
      rw [top, mul_le_mul_iff_left₀ (by positivity), div_le_div_iff₀ two_pos positive', not_lt, ← Nat.cast_le (α := ℚ)]
      push_cast
      constructor <;> intro h <;> linarith
    rw [units, top]
    omega
  · refine iff_of_true (by omega) (.trans ?_ (place.full.resolve_left (by omega)))
    refine le_trans ?_ (two_zpow_le (a := 53 + 971) (by omega))
    rw [zpow_add₀ two_ne_zero]
    gcongr
    norm_num

/-- In units of 2^k a finite value is an integer, or below 2^52. -/
theorem multiple_or_small {w : F64} (hw : finite w = true) (k : ℤ) :
    (∃ j : ℤ, realValue w = j * 2 ^ k) ∨ (-1074 < k ∧ |realValue w| < 2 ^ (k + 52)) := by
  obtain ⟨neg, mant, exp, unpacked⟩ := unpack_of_finite hw
  obtain ⟨⟨least, fits, -⟩, -, -⟩ := eq_of_unpack_fin unpacked
  rw [realValue_of_unpack unpacked]
  rcases le_or_gt k exp with whole | part
  · refine .inl ⟨(if neg then -1 else 1) * (mant * 2 ^ (exp - k).toNat), ?_⟩
    rw [two_zpow_split whole, signFactor]
    push_cast
    ring
  · refine .inr ⟨by omega, ?_⟩
    rw [abs_mul, abs_signFactor, one_mul, abs_of_nonneg (by positivity)]
    calc (mant * 2 ^ exp : ℚ) < 2 ^ 53 * 2 ^ exp := by gcongr; exact_mod_cast fits
      _ = 2 ^ (exp + 53) := by rw [zpow_add₀ two_ne_zero, mul_comm]; rfl
      _ ≤ 2 ^ (k + 52) := two_zpow_le (by omega)

theorem isNearest_of_eq {r : F64} {x : ℚ} (h : realValue r = x) : isNearest r x := by
  intro w _
  rcases eq_or_ne (realValue w) (realValue r) with same | other
  · exact .inl same
  · rw [h, sub_self, abs_zero]
    exact .inr (.inl (abs_pos.2 (sub_ne_zero.2 (h ▸ other))))

/-- A value with 53 bits before its last place lies above 2^52 units, and its rounding is no further from it than they are. -/
theorem rounded_distance_le (num : ℕ) (hd : den ≠ 0) (e : ℤ) (full : 2 ^ (ulpExp num den e + 52) ≤ (num / den * 2 ^ e : ℚ)) :
    |(roundedUnits num den e : ℚ) * 2 ^ ulpExp num den e - num / den * 2 ^ e| ≤
      num / den * 2 ^ e - 2 ^ (ulpExp num den e + 52) := by
  have least : ((2 ^ 52 : ℤ) : ℚ) * 2 ^ ulpExp num den e = 2 ^ (ulpExp num den e + 52) := by
    rw [zpow_add₀ two_ne_zero, mul_comm]
    norm_cast
  have distance : |((2 ^ 52 : ℤ) : ℚ) * 2 ^ ulpExp num den e - num / den * 2 ^ e| =
      num / den * 2 ^ e - 2 ^ (ulpExp num den e + 52) := by
    rw [least, abs_of_nonpos (sub_nonpos.2 full), neg_sub]
  rw [← distance]
  rcases roundedUnits_nearest num hd e (2 ^ 52) with same | closer | ⟨tied, -⟩
  · rw [same, Int.cast_natCast]
  · exact closer.le
  · exact tied.le

/-- The units are nearest among the values that are whole in them, and every other value lies below 2^52 units. -/
theorem isNearest_rounded (neg : Bool) (hn : num ≠ 0) (hd : den ≠ 0) (e : ℤ) {r : F64}
    (value : realValue r = signFactor neg * (roundedUnits num den e * 2 ^ ulpExp num den e))
    (parity : roundedUnits num den e % 2 = 0 → r.getLsbD 0 = false) :
    isNearest r (signFactor neg * (num / den * 2 ^ e)) := by
  intro w hw
  have mirrored (v : F64) : |realValue v - signFactor neg * (num / den * 2 ^ e)| = |signFactor neg * realValue v - num / den * 2 ^ e| :=
    (abs_signFactor_mul_sub ..).symm
  have magnitude : signFactor neg * realValue r = roundedUnits num den e * 2 ^ ulpExp num den e := by
    rw [value, ← mul_assoc, signFactor_mul_self, one_mul]
  rw [mirrored r, mirrored w, magnitude]
  rcases multiple_or_small hw (ulpExp num den e) with ⟨j, whole⟩ | ⟨notLeast, small⟩
  · have whole' : signFactor neg * realValue w = ((if neg then -j else j : ℤ) : ℚ) * 2 ^ ulpExp num den e := by
      rw [whole, signFactor]
      cases neg <;> simp
    rcases roundedUnits_nearest num hd e (if neg then -j else j) with same | closer | ⟨tied, even⟩
    · rw [same, Int.cast_natCast, ← magnitude] at whole'
      exact .inl (mul_left_cancel₀ (signFactor_ne_zero neg) whole')
    · exact .inr (.inl (whole' ▸ closer))
    · exact .inr (.inr ⟨whole' ▸ tied, parity even⟩)
  · have full := (lastPlace_ulpExp hn hd e).full.resolve_left notLeast.ne'
    have below : signFactor neg * realValue w < 2 ^ (ulpExp num den e + 52) := by
      refine (le_abs_self _).trans_lt ?_
      rwa [abs_mul, abs_signFactor, one_mul]
    refine .inr (.inl ((rounded_distance_le num hd e full).trans_lt ?_))
    rw [abs_of_nonpos (sub_nonpos.2 (below.le.trans full)), neg_sub]
    linarith

theorem lt_overflow_threshold : (2 : ℚ) ^ 53 < 2 ^ 1024 - 2 ^ 970 := by
  have below : (2 : ℚ) ^ 53 < 2 ^ 1023 := pow_lt_pow_right₀ one_lt_two (by norm_num)
  have subtracted : (2 : ℚ) ^ 970 ≤ 2 ^ 1023 := pow_le_pow_right₀ one_le_two (by norm_num)
  rw [lt_sub_iff_add_lt, show (2 : ℚ) ^ 1024 = 2 * 2 ^ 1023 from pow_succ' .., two_mul]
  exact add_lt_add_of_lt_of_le below subtracted

theorem roundsTo_signed_zero (neg : Bool) : roundsTo (signed neg 0) 0 := by
  have unpacked := unpack_signed_zero neg
  rw [roundsTo, if_pos ((abs_zero.trans_le (by positivity)).trans_lt lt_overflow_threshold)]
  exact ⟨finite_of_unpack unpacked, isNearest_of_eq (by rw [realValue_of_unpack unpacked]; simp)⟩

/-- A fraction is rounded as R100 says, below the overflow threshold and from it on. -/
theorem roundsTo_roundRatio (neg : Bool) (num : ℕ) (hd : den ≠ 0) (e : ℤ) :
    roundsTo (roundRatio neg num den e) (signFactor neg * (num / den * 2 ^ e)) := by
  rcases eq_or_ne num 0 with rfl | hn
  · have zero : signFactor neg * ((0 : ℕ) / den * 2 ^ e) = 0 := by simp
    exact zero ▸ roundsTo_signed_zero neg
  have positive : (0 : ℚ) < num / den * 2 ^ e := by positivity
  rw [roundsTo, abs_mul, abs_signFactor, one_mul, abs_of_pos positive, roundRatio_of_ne_zero neg hn]
  split_ifs with below overflows
  · exact absurd ((overflow_iff hn hd e).1 overflows) (not_le.2 below)
  · have small := not_le.1 overflows
    obtain ⟨mant, exp, unpacked, value⟩ :=
      unpack_rounded neg (lastPlace_ulpExp hn hd e).least (roundedUnits_le hn hd e) (roundedUnits_full hn hd e) small
    refine ⟨finite_of_unpack unpacked, isNearest_rounded neg hn hd e ?_ fun even => signed_even (by omega) ?_⟩
    · rw [realValue_of_unpack unpacked, value]
    · unfold magnitudeOf
      omega
  · rw [unpack_infBits]
    cases neg <;> simp [signFactor, positive, positive.le]
  · exact absurd ((overflow_iff hn hd e).2 (not_lt.1 below)) ‹_›

end

/-! ## The operations on finite values (R100) -/

section
variable {a b : F64} {n m : Bool} {x y : ℕ} {ex ey : ℤ}

/-- The integers that `fadd` adds: both values in units of 2^e. -/
theorem alignedInt_value (neg : Bool) (mant : ℕ) {exp e : ℤ} (h : e ≤ exp) :
    (alignedInt neg mant exp e : ℚ) * 2 ^ e = signFactor neg * (mant * 2 ^ exp) := by
  rw [two_zpow_split h, alignedInt, signFactor]
  cases neg <;> simp [mul_assoc]

theorem intCast_eq_signFactor_mul (k : ℤ) : (k : ℚ) = signFactor (decide (k < 0)) * (k.natAbs / (1 : ℕ)) := by
  rw [Nat.cast_one, div_one, Nat.cast_natAbs, Int.cast_abs, signFactor]
  rcases lt_or_ge k 0 with negative | notNegative
  · simp [negative, abs_of_neg (Int.cast_lt_zero (R := ℚ).2 negative)]
  · simp [notNegative.not_gt, abs_of_nonneg (Int.cast_nonneg (R := ℚ) notNegative)]

theorem fadd_fin (ha : unpack a = .fin n x ex) (hb : unpack b = .fin m y ey) :
    fadd a b =
      if alignedInt n x ex (min ex ey) + alignedInt m y ey (min ex ey) = 0 then signed (n && m) 0
      else roundRatio (decide (alignedInt n x ex (min ex ey) + alignedInt m y ey (min ex ey) < 0))
        (alignedInt n x ex (min ex ey) + alignedInt m y ey (min ex ey)).natAbs 1 (min ex ey) := by
  rw [fadd, ha, hb]

theorem fmul_fin (ha : unpack a = .fin n x ex) (hb : unpack b = .fin m y ey) :
    fmul a b = roundRatio (n != m) (x * y) 1 (ex + ey) := by
  rw [fmul, ha, hb]

theorem fdiv_fin (ha : unpack a = .fin n x ex) (hb : unpack b = .fin m y ey) :
    fdiv a b =
      if y = 0 then (if x = 0 then nanBits else infBits (n != m)) else roundRatio (n != m) x y (ex - ey) := by
  rw [fdiv, ha, hb]

theorem roundsTo_fadd (ha : finite a = true) (hb : finite b = true) : roundsTo (fadd a b) (realValue a + realValue b) := by
  obtain ⟨n, x, ex, ha⟩ := unpack_of_finite ha
  obtain ⟨m, y, ey, hb⟩ := unpack_of_finite hb
  rw [realValue_of_unpack ha, realValue_of_unpack hb, ← alignedInt_value n x (min_le_left ex ey),
    ← alignedInt_value m y (min_le_right ex ey), ← add_mul, fadd_fin ha hb, ← Int.cast_add]
  generalize alignedInt n x ex (min ex ey) + alignedInt m y ey (min ex ey) = sum
  split_ifs with zero
  · rw [zero, Int.cast_zero, zero_mul]
    exact roundsTo_signed_zero _
  · rw [intCast_eq_signFactor_mul sum, mul_assoc]
    exact roundsTo_roundRatio _ _ one_ne_zero _

theorem roundsTo_fsub (ha : finite a = true) (hb : finite b = true) : roundsTo (fsub a b) (realValue a - realValue b) := by
  rw [fsub, sub_eq_add_neg, ← realValue_fneg hb]
  exact roundsTo_fadd ha (finite_fneg hb)

theorem roundsTo_fmul (ha : finite a = true) (hb : finite b = true) : roundsTo (fmul a b) (realValue a * realValue b) := by
  obtain ⟨n, x, ex, ha⟩ := unpack_of_finite ha
  obtain ⟨m, y, ey, hb⟩ := unpack_of_finite hb
  have product : realValue a * realValue b = signFactor (n != m) * ((x * y : ℕ) / (1 : ℕ) * 2 ^ (ex + ey)) := by
    rw [realValue_of_unpack ha, realValue_of_unpack hb, signFactor_bne, zpow_add₀ two_ne_zero]
    push_cast
    ring
  rw [product, fmul_fin ha hb]
  exact roundsTo_roundRatio _ _ one_ne_zero _

theorem roundsTo_fdiv (ha : finite a = true) (hb : finite b = true) (nonzero : realValue b ≠ 0) :
    roundsTo (fdiv a b) (realValue a / realValue b) := by
  obtain ⟨n, x, ex, ha⟩ := unpack_of_finite ha
  obtain ⟨m, y, ey, hb⟩ := unpack_of_finite hb
  have divisor : y ≠ 0 := by
    rintro rfl
    simp [realValue_of_unpack hb] at nonzero
  have quotient : realValue a / realValue b = signFactor (n != m) * (x / y * 2 ^ (ex - ey)) := by
    rw [realValue_of_unpack ha, realValue_of_unpack hb, signFactor_bne, zpow_sub₀ two_ne_zero, mul_div_mul_comm,
      mul_div_mul_comm, div_eq_mul_inv (signFactor n), signFactor_inv]
  rw [quotient, fdiv_fin ha hb, if_neg divisor]
  exact roundsTo_roundRatio _ _ divisor _

end

/-- Settles O43: each operation rounds the exact result, as a fraction, once. -/
theorem roundsToNearest : Obligations.RoundsToNearest := fun _ _ ha hb =>
  ⟨roundsTo_fadd ha hb, roundsTo_fsub ha hb, roundsTo_fmul ha hb, roundsTo_fdiv ha hb⟩


/-! ## The corners (R11, R100) -/

section
variable {a b v : F64}

theorem unpack_fdiv_by_zero {n : Bool} {x : ℕ} {ex : ℤ} (ha : unpack a = .fin n x ex) (zero : isZeroF b = true) :
    ∃ neg, unpack (fdiv a b) = if x = 0 then .nan else .inf neg := by
  obtain ⟨m, hb⟩ := unpack_of_isZeroF zero
  refine ⟨n != m, ?_⟩
  rw [fdiv_fin ha hb, if_pos rfl]
  split_ifs
  · exact unpack_nanBits
  · exact unpack_infBits _

theorem unpack_nan_operand (h : unpack a = .nan ∨ unpack b = .nan) :
    unpack (fadd a b) = .nan ∧ unpack (fmul a b) = .nan ∧ unpack (fdiv a b) = .nan := by
  unfold fadd fmul fdiv
  rcases h with ha | hb
  · rw [ha]
    exact ⟨unpack_nanBits, unpack_nanBits, unpack_nanBits⟩
  · rw [hb]
    cases unpack a <;> exact ⟨unpack_nanBits, unpack_nanBits, unpack_nanBits⟩

theorem isZeroF_iff (v : F64) : isZeroF v = true ↔ finite v = true ∧ realValue v = 0 := by
  constructor
  · intro zero
    obtain ⟨neg, unpacked⟩ := unpack_of_isZeroF zero
    exact ⟨finite_of_unpack unpacked, by rw [realValue_of_unpack unpacked]; simp⟩
  · rintro ⟨hv, zero⟩
    obtain ⟨neg, mant, exp, unpacked⟩ := unpack_of_finite hv
    rw [realValue_of_unpack unpacked, mul_eq_zero, or_iff_right (signFactor_ne_zero neg), mul_eq_zero,
      or_iff_left (zpow_ne_zero exp two_ne_zero), Nat.cast_eq_zero] at zero
    exact (isZeroF_iff_of_unpack unpacked).2 zero

theorem ffloor_eq_floor (hv : finite v = true) : ffloor v = ⌊realValue v⌋ := by
  obtain ⟨neg, mant, exp, unpacked⟩ := unpack_of_finite hv
  have value : realValue v = ((if neg then -(mant : ℤ) else mant : ℤ) : ℚ) * 2 ^ exp := by
    rw [realValue_of_unpack unpacked, signFactor, ← mul_assoc]
    cases neg <;> simp
  rw [value]
  simp only [ffloor, unpacked]
  generalize (if neg then -(mant : ℤ) else mant : ℤ) = significand
  split_ifs with whole
  · obtain ⟨k, rfl⟩ := Int.eq_ofNat_of_zero_le whole
    have product : (significand : ℚ) * 2 ^ (k : ℤ) = (significand * 2 ^ k : ℤ) := by push_cast; rfl
    rw [product, Int.floor_intCast, Int.toNat_natCast]
  · obtain ⟨k, rfl⟩ := Int.exists_eq_neg_ofNat (le_of_not_ge whole)
    have quotient : (significand : ℚ) * 2 ^ (-(k : ℤ)) = significand / (2 ^ k : ℕ) := by
      rw [zpow_neg, zpow_natCast, ← div_eq_mul_inv]
      norm_cast
    rw [quotient, Rat.floor_intCast_div_natCast, neg_neg, Int.toNat_natCast]
    norm_cast

/-- Rounding the value of an encoding gives it back: its exponent is that of its last place already. -/
theorem roundRatio_of_unpack {neg : Bool} {mant : ℕ} {exp : ℤ} (unpacked : unpack v = .fin neg mant exp) :
    roundRatio neg mant 1 exp = v := by
  obtain ⟨normalized, high, rfl⟩ := eq_of_unpack_fin unpacked
  rcases eq_or_ne mant 0 with rfl | nonzero
  · rw [normalized.full.resolve_right (by decide)]
    rfl
  have place := lastPlace_ulpExp nonzero one_ne_zero exp
  rw [Nat.cast_one, div_one] at place
  have units : roundedUnits mant 1 exp = mant := by
    rw [roundedUnits, place.unique normalized.lastPlace, inUnits, if_pos le_rfl, roundEven_one, sub_self, Int.toNat_zero,
      pow_zero, mul_one]
  rw [roundRatio_of_ne_zero neg nonzero, units, place.unique normalized.lastPlace,
    if_neg (not_le.2 (magnitudeOf_lt normalized.fits high))]

theorem realValue_of_isNearest {r w : F64} {x : ℚ} (nearest : isNearest r x) (hw : finite w = true) (value : realValue w = x) :
    realValue r = x := by
  rcases nearest w hw with same | closer | ⟨tied, -⟩
  · rw [← same, value]
  · rw [value, sub_self, abs_zero] at closer
    exact absurd closer (abs_nonneg _).not_gt
  · rw [value, sub_self, abs_zero] at tied
    exact sub_eq_zero.1 (abs_eq_zero.1 tied)

/-- Shifted until its leading bit is bit 52, a natural number below 2^53 is a significand. -/
theorem normalized_shift {n : ℕ} (nonzero : n ≠ 0) (h : n < 2 ^ 53) :
    Normalized (n * 2 ^ (52 - n.log2)) (n.log2 - 52) := by
  have bits : n.log2 < 53 := (Nat.log2_lt nonzero).2 h
  refine ⟨by omega, ?_, .inr ?_⟩
  · calc n * 2 ^ (52 - n.log2) < 2 ^ (n.log2 + 1) * 2 ^ (52 - n.log2) := by gcongr; exact Nat.lt_log2_self
      _ = 2 ^ 53 := by rw [← pow_add]; congr 1; omega
  · calc 2 ^ 52 = 2 ^ n.log2 * 2 ^ (52 - n.log2) := by rw [← pow_add]; congr 1; omega
      _ ≤ n * 2 ^ (52 - n.log2) := by gcongr; exact Nat.log2_self_le nonzero

theorem exists_realValue_of_normalized {mant : ℕ} {exp : ℤ} (h : Normalized mant exp) (high : exp ≤ 971) :
    ∃ w : F64, finite w = true ∧ realValue w = mant * 2 ^ exp := by
  have unpacked := unpack_magnitudeOf (neg := false) h high
  exact ⟨_, finite_of_unpack unpacked, by rw [realValue_of_unpack unpacked]; simp [signFactor]⟩

theorem exists_realValue_eq_natCast {n : ℕ} (h : n ≤ 2 ^ 53) : ∃ w : F64, finite w = true ∧ realValue w = n := by
  rcases eq_or_ne n 0 with rfl | nonzero
  · obtain ⟨hw, zero⟩ := (isZeroF_iff 0#64).1 rfl
    exact ⟨0#64, hw, zero.trans Nat.cast_zero.symm⟩
  rcases h.eq_or_lt with rfl | h
  · obtain ⟨w, hw, value⟩ := exists_realValue_of_normalized (mant := 2 ^ 52) (exp := 1) ⟨by omega, by omega, by omega⟩ (by omega)
    exact ⟨w, hw, value.trans (by norm_num)⟩
  · have bits : n.log2 < 53 := (Nat.log2_lt nonzero).2 h
    obtain ⟨w, hw, value⟩ := exists_realValue_of_normalized (normalized_shift nonzero h) (by omega)
    refine ⟨w, hw, value.trans ?_⟩
    have cancels : (2 : ℚ) ^ (52 - n.log2) * 2 ^ ((n.log2 : ℤ) - 52) = 1 := by
      rw [← zpow_natCast, ← zpow_add₀ two_ne_zero, ← zpow_zero (2 : ℚ)]
      congr 1
      omega
    push_cast
    rw [mul_assoc, cancels, mul_one]

theorem fofNat_exact {n : ℕ} (h : n ≤ 2 ^ 53) : finite (fofNat n) = true ∧ realValue (fofNat n) = n := by
  have rounded := roundsTo_roundRatio false n one_ne_zero 0
  have value : signFactor false * (n / (1 : ℕ) * 2 ^ (0 : ℤ)) = n := by simp [signFactor]
  have below : |(n : ℚ)| < 2 ^ 1024 - 2 ^ 970 := by
    rw [abs_of_nonneg n.cast_nonneg]
    exact lt_of_le_of_lt (by exact_mod_cast h) lt_overflow_threshold
  rw [value, roundsTo, if_pos below] at rounded
  obtain ⟨w, hw, represents⟩ := exists_realValue_eq_natCast h
  exact ⟨rounded.1, realValue_of_isNearest rounded.2 hw represents⟩

end

/-- Settles O44: each clause is a lemma about one operation on what its operands stand for. -/
theorem binaryCorners : Obligations.BinaryCorners := by
  refine ⟨?infinity, ?undefined, ?operands, isZeroF_iff, fun v => ffloor_eq_floor, fun v neg mant exp => roundRatio_of_unpack,
    fun n => fofNat_exact⟩
  case infinity =>
    intro a b zero ha nonzero
    obtain ⟨n, x, ex, unpacked⟩ := unpack_of_finite ha
    obtain ⟨neg, quotient⟩ := unpack_fdiv_by_zero unpacked zero
    have numerator : x ≠ 0 := fun h => by simp [(isZeroF_iff_of_unpack unpacked).2 h] at nonzero
    exact ⟨neg, quotient.trans (if_neg numerator)⟩
  case undefined =>
    rintro a b zero (numerator | numerator)
    · obtain ⟨n, unpacked⟩ := unpack_of_isZeroF numerator
      obtain ⟨neg, quotient⟩ := unpack_fdiv_by_zero unpacked zero
      exact quotient.trans (if_pos rfl)
    · exact (unpack_nan_operand (.inl numerator)).2.2
  case operands =>
    intro a b nan
    obtain ⟨sum, product, quotient⟩ := unpack_nan_operand nan
    exact ⟨sum, (unpack_nan_operand (nan.imp_right unpack_fneg_nan)).1, product, quotient⟩

end Sys2Proof.Machine

/-! PROOFS. 44_sampler.md R111, R112 and 60_exceptions.md R148: where the nudge and the sampling fail, and what the transform, sampler and matrix commands then leave (O50). -/

namespace Sys2Proof.Machine

/-! ## Points of a list by their numbers -/

section
variable {pts : List Point} {p : ℕ}

theorem exists_split_at (hp : p < pts.length) : ∃ front back, pts = front ++ pointAt pts p :: back ∧ front.length = p := by
  refine ⟨pts.take p, pts.drop (p + 1), ?_, List.length_take_of_le hp.le⟩
  rw [pointAt, List.getD_eq_getElem _ _ hp, ← List.drop_eq_getElem_cons, List.take_append_drop]

theorem forall_mem_of_pointAt {P : Point → Prop} (h : ∀ i < pts.length, P (pointAt pts i)) : ∀ pt ∈ pts, P pt := by
  intro pt member
  obtain ⟨i, hi, rfl⟩ := List.mem_iff_getElem.1 member
  exact List.getD_eq_getElem pts _ hi ▸ h i hi

theorem pointAt_append_left (front back : List Point) (hp : p < front.length) : pointAt (front ++ back) p = pointAt front p :=
  List.getD_append _ _ _ _ hp

theorem pointAt_append_right (front back : List Point) (k : ℕ) : pointAt (front ++ back) (front.length + k) = pointAt back k := by
  rw [pointAt, List.getD_append_right _ _ _ _ (Nat.le_add_right ..), Nat.add_sub_cancel_left]

end

/-! ## Points that are not finite (R108, R111) -/

theorem checkFinite_error (row : ℕ) {pts : List Point} {p : ℕ} (h : firstNonFinite pts p) (k : ℕ) :
    checkFinite row k pts = .error (geometryError 2 (k + p) row) := by
  induction pts generalizing p k with
  | nil => exact absurd h.1 (Nat.not_lt_zero p)
  | cons pt pts ih =>
    obtain ⟨inside, notFinite, before⟩ := h
    cases p with
    | zero => exact if_neg (Bool.eq_false_iff.1 notFinite)
    | succ p =>
      have head : finitePoint pt = true := before 0 p.succ_pos
      rw [checkFinite, if_pos head,
        ih ⟨Nat.lt_of_succ_lt_succ inside, notFinite, fun j hj => before (j + 1) (Nat.succ_lt_succ hj)⟩, Nat.succ_add_eq_add_succ]

theorem nudge_error_of_firstNonFinite (w h row : ℕ) {pts : List Point} {p : ℕ} (first : firstNonFinite pts p) :
    nudge w h row pts = .error (geometryError 2 p row) :=
  (bind_error_iff ..).2 (.inl (by rw [checkFinite_error row first, Nat.zero_add]))

/-! ## One point of the nudge (R111) -/

section
variable {w h : ℕ} {pt : Point}

theorem nudgeOne_error (row p : ℕ) (out : ¬ withinReach w h pt) : nudgeOne w h row p pt = .error (geometryError 3 p row) := by
  refine if_pos ?_
  simp only [outOfReach, Bool.or_eq_true, decide_eq_true_eq]
  omega

theorem nudgeOne_ok (row p : ℕ) (reach : withinReach w h pt) :
    nudgeOne w h row p pt =
      .ok (((nudgeAxis w pt.1).1, (nudgeAxis h pt.2).1), (nudgeAxis w pt.1).2 || (nudgeAxis h pt.2).2) := by
  refine if_neg ?_
  simp only [outOfReach, Bool.or_eq_true, decide_eq_true_eq]
  omega

theorem nudgeAxis_inside {size : ℕ} {v : F64} (low : 0 ≤ ffloor v) (high : ffloor v < size) : nudgeAxis size v = (v, false) := by
  rw [nudgeAxis, if_neg (by omega), if_neg (by omega)]

theorem nudgeAxis_snd (size : ℕ) (v : F64) : (nudgeAxis size v).2 = true ↔ ffloor v = -1 ∨ ffloor v = size := by
  unfold nudgeAxis
  split_ifs <;> simp [*]

theorem nudgeOne_inside (row p : ℕ) (inside : insideImage w h pt) : nudgeOne w h row p pt = .ok (pt, false) := by
  obtain ⟨lowX, highX, lowY, highY⟩ := inside
  rw [nudgeOne_ok row p ⟨by omega, by omega, by omega, by omega⟩, nudgeAxis_inside lowX highX, nudgeAxis_inside lowY highY]
  rfl

/-- A point within reach but outside the image is nudged. -/
theorem nudgeOne_nudged (row p : ℕ) (reach : withinReach w h pt) (outside : ¬ insideImage w h pt) :
    ∃ q, nudgeOne w h row p pt = .ok (q, true) := by
  refine ⟨_, (nudgeOne_ok row p reach).trans (congrArg (fun nudged => Except.ok (_, nudged)) ?_)⟩
  rw [Bool.or_eq_true, nudgeAxis_snd, nudgeAxis_snd]
  omega

end

/-! ## A scan of the nudge (R111) -/

section
variable {w h : ℕ} (row : ℕ)

theorem nudgeScan_cons_inside {c : ℕ × Point} (inside : insideImage w h c.2) (rest : List (ℕ × Point)) :
    nudgeScan w h row (c :: rest) = .ok (c :: rest) :=
  (bind_ok_iff ..).2 ⟨_, nudgeOne_inside row c.1 inside, rfl⟩

theorem nudgeScan_cons_nudged {c : ℕ × Point} (reach : withinReach w h c.2) (outside : ¬ insideImage w h c.2)
    (rest : List (ℕ × Point)) :
    ∃ q, nudgeScan w h row (c :: rest) = (nudgeScan w h row rest >>= fun out => .ok ((c.1, q) :: out)) := by
  obtain ⟨q, nudged⟩ := nudgeOne_nudged row c.1 reach outside
  refine ⟨q, ?_⟩
  rw [nudgeScan, nudged]
  rfl

/-- A scan that nudges every point before one out of reach fails at it. -/
theorem nudgeScan_error {front : List (ℕ × Point)} (nudged : ∀ c ∈ front, withinReach w h c.2 ∧ ¬ insideImage w h c.2)
    (p : ℕ) {pt : Point} (out : ¬ withinReach w h pt) (back : List (ℕ × Point)) :
    nudgeScan w h row (front ++ (p, pt) :: back) = .error (geometryError 3 p row) := by
  induction front with
  | nil => exact (bind_error_iff ..).2 (.inl (nudgeOne_error row p out))
  | cons d front ih =>
    obtain ⟨reach, outside⟩ := nudged d List.mem_cons_self
    obtain ⟨q, step⟩ := nudgeScan_cons_nudged row reach outside (front ++ (p, pt) :: back)
    rw [List.cons_append, step, ih fun d hd => nudged d (List.mem_cons_of_mem _ hd)]
    rfl

/-- A scan that comes to a point inside the image changes nothing behind it. -/
theorem nudgeScan_stops {front : List (ℕ × Point)} (reached : ∀ c ∈ front, withinReach w h c.2) (p : ℕ)
    {pt : Point} (inside : insideImage w h pt) (back : List (ℕ × Point)) :
    ∃ front', nudgeScan w h row (front ++ (p, pt) :: back) = .ok (front' ++ (p, pt) :: back) := by
  induction front with
  | nil => exact ⟨[], nudgeScan_cons_inside row (c := (p, pt)) inside back⟩
  | cons d front ih =>
    by_cases stop : insideImage w h d.2
    · exact ⟨d :: front, nudgeScan_cons_inside row stop _⟩
    · obtain ⟨q, step⟩ := nudgeScan_cons_nudged row (reached d List.mem_cons_self) stop (front ++ (p, pt) :: back)
      obtain ⟨front', rest⟩ := ih fun d hd => reached d (List.mem_cons_of_mem _ hd)
      refine ⟨(d.1, q) :: front', ?_⟩
      rw [List.cons_append, step, rest]
      rfl

end

/-! ## The nudge (R111) -/

/-- Points with the numbers that the scans carry, from k up (R111). -/
def numbered (k : ℕ) (pts : List Point) : List (ℕ × Point) := (pts.zipIdx k).map fun c => (c.2, c.1)

theorem numbered_append (k : ℕ) (front back : List Point) :
    numbered k (front ++ back) = numbered k front ++ numbered (k + front.length) back := by
  rw [numbered, List.zipIdx_append, List.map_append]
  rfl

theorem numbered_split (front back : List Point) (pt : Point) :
    numbered 0 (front ++ pt :: back) = numbered 0 front ++ (front.length, pt) :: numbered (front.length + 1) back := by
  rw [numbered_append, Nat.zero_add]
  rfl

theorem forall_mem_numbered {P : Point → Prop} {pts : List Point} (h : ∀ pt ∈ pts, P pt) (k : ℕ) :
    ∀ c ∈ numbered k pts, P c.2 := by
  intro c member
  obtain ⟨d, listed, rfl⟩ := List.mem_map.1 member
  exact h d.1 (List.fst_mem_of_mem_zipIdx listed)

theorem nudge_of_finite (w h row : ℕ) {pts : List Point} (finite : ∀ pt ∈ pts, finitePoint pt = true) :
    nudge w h row pts = (do
      let front ← nudgeScan w h row (numbered 0 pts)
      let back ← nudgeScan w h row front.reverse
      return back.reverse.map fun c => c.2) := by
  rw [nudge, checkFinite_ok row finite]
  rfl

/-- The nudge fails at a point out of reach that one of its scans comes to; what the front scan changed lies before it. -/
theorem nudge_error_of_scanFails {w h : ℕ} (row : ℕ) {pts : List Point} {p : ℕ} (finite : ∀ pt ∈ pts, finitePoint pt = true)
    (fails : scanFails w h pts p) : nudge w h row pts = .error (geometryError 3 p row) := by
  obtain ⟨hp, out, scan⟩ := fails
  obtain ⟨front, back, split, rfl⟩ := exists_split_at hp
  generalize pointAt pts front.length = pt at split out
  subst split
  have before {i : ℕ} (hi : i < front.length) : pointAt (front ++ pt :: back) i = pointAt front i := pointAt_append_left front _ hi
  rw [nudge_of_finite w h row finite, numbered_split]
  rcases scan with nudged | ⟨⟨i, hi, inside, reached⟩, nudged⟩
  · have frontNudged : ∀ pt ∈ front, withinReach w h pt ∧ ¬ insideImage w h pt :=
      forall_mem_of_pointAt fun i hi => by
        rw [← before hi]
        exact nudged i hi
    exact (bind_error_iff ..).2 (.inl (nudgeScan_error row (forall_mem_numbered frontNudged 0) _ out _))
  · have backNudged : ∀ pt ∈ back, withinReach w h pt ∧ ¬ insideImage w h pt :=
      forall_mem_of_pointAt fun j hj => by
        have behind : pointAt (front ++ pt :: back) (front.length + (j + 1)) = pointAt back j := pointAt_append_right front _ _
        rw [← behind]
        exact nudged _ (by omega) (by simp only [List.length_append, List.length_cons]; omega)
    rw [before hi] at inside
    obtain ⟨first, rest, split, rfl⟩ := exists_split_at hi
    generalize pointAt front first.length = stop at split inside
    subst split
    have firstReached : ∀ pt ∈ first, withinReach w h pt :=
      forall_mem_of_pointAt fun k hk => by
        have kept := (before (hk.trans hi)).trans (pointAt_append_left first _ hk)
        rw [← kept]
        exact reached k hk
    rw [numbered_split first, List.append_assoc, List.cons_append]
    obtain ⟨first', scanned⟩ := nudgeScan_stops row (forall_mem_numbered firstReached 0) first.length inside
      (numbered (first.length + 1) rest ++ ((first ++ stop :: rest).length, pt) :: numbered ((first ++ stop :: rest).length + 1) back)
    refine (bind_error_iff ..).2 (.inr ⟨_, scanned, (bind_error_iff ..).2 (.inl ?_)⟩)
    have backReversed := forall_mem_numbered backNudged ((first ++ stop :: rest).length + 1)
    simp only [List.reverse_append, List.reverse_cons, List.append_assoc, List.singleton_append]
    exact nudgeScan_error row (fun c hc => backReversed c (List.mem_reverse.1 hc)) _ out _

/-! ## Rows and grids (R112) -/

section
variable {s : State} {t : Transform} {dim y : ℕ}

theorem samplePixel_inside {pt : Point} (inside : insideImage s.imgW.toNat s.imgH.toNat pt) (y x : ℕ) :
    ∃ bit, samplePixel s y x pt = .ok bit := by
  refine ⟨_, if_neg ?_⟩
  simp only [Bool.or_eq_true, decide_eq_true_eq]
  omega

theorem samplePixel_outside {pt : Point} (outside : ¬ insideImage s.imgW.toNat s.imgH.toNat pt) (y x : ℕ) :
    samplePixel s y x pt = .error (geometryError 4 x y) := by
  refine if_pos ?_
  simp only [Bool.or_eq_true, decide_eq_true_eq]
  omega

theorem sampleRow_ok {pts : List Point} (inside : ∀ pt ∈ pts, insideImage s.imgW.toNat s.imgH.toNat pt) (y x : ℕ) :
    ∃ bits, sampleRow s y x pts = .ok bits := by
  induction pts generalizing x with
  | nil => exact ⟨[], rfl⟩
  | cons pt pts ih =>
    obtain ⟨bit, first⟩ := samplePixel_inside (inside pt List.mem_cons_self) y x
    obtain ⟨bits, rest⟩ := ih (fun q hq => inside q (List.mem_cons_of_mem pt hq)) (x + 1)
    exact ⟨bit :: bits, (bind_ok_iff ..).2 ⟨bit, first, (bind_ok_iff ..).2 ⟨bits, rest, rfl⟩⟩⟩

theorem sampleRow_error {pts : List Point} {col : ℕ} (hc : col < pts.length)
    (outside : ¬ insideImage s.imgW.toNat s.imgH.toNat (pointAt pts col))
    (before : ∀ j < col, insideImage s.imgW.toNat s.imgH.toNat (pointAt pts j)) (y x : ℕ) :
    sampleRow s y x pts = .error (geometryError 4 (x + col) y) := by
  induction pts generalizing col x with
  | nil => exact absurd hc (Nat.not_lt_zero col)
  | cons pt pts ih =>
    cases col with
    | zero => exact (bind_error_iff ..).2 (.inl (samplePixel_outside outside y x))
    | succ col =>
      obtain ⟨bit, first⟩ := samplePixel_inside (pt := pt) (before 0 col.succ_pos) y x
      have rest := ih (Nat.lt_of_succ_lt_succ hc) outside (fun j hj => before (j + 1) (Nat.succ_lt_succ hj)) (x + 1)
      rw [Nat.succ_add_eq_add_succ] at rest
      exact (bind_error_iff ..).2 (.inr ⟨bit, first, (bind_error_iff ..).2 (.inl rest)⟩)

theorem gridRow_eq (s : State) (t : Transform) (dim y : ℕ) :
    gridRow s t dim y = (do
      let pts ← nudge s.imgW.toNat s.imgH.toNat y (gridPoints t dim y)
      let bits ← sampleRow s y 0 pts
      return rowOf (fun x => bits.getD x false) dim) := rfl

theorem gridRow_ok_of_rowPasses (passes : rowPasses s t dim y) : ∃ row, gridRow s t dim y = .ok row := by
  obtain ⟨pts, nudged, inside⟩ := passes
  obtain ⟨bits, sampled⟩ := sampleRow_ok inside y 0
  exact ⟨_, (gridRow_eq ..).trans ((bind_ok_iff ..).2 ⟨pts, nudged, (bind_ok_iff ..).2 ⟨bits, sampled, rfl⟩⟩)⟩

theorem gridRow_error_of_rowFails {cause col : ℕ} (fails : rowFails s t dim y cause col) :
    gridRow s t dim y = .error (geometryError cause col y) := by
  rw [gridRow_eq, bind_error_iff]
  rcases fails with ⟨rfl, first⟩ | ⟨rfl, finite, scan⟩ | ⟨rfl, pts, nudged, hc, outside, before⟩
  · exact .inl (nudge_error_of_firstNonFinite _ _ y first)
  · exact .inl (nudge_error_of_scanFails y finite scan)
  · have sampled := sampleRow_error hc outside before y 0
    rw [Nat.zero_add] at sampled
    exact .inr ⟨pts, nudged, (bind_error_iff ..).2 (.inl sampled)⟩

theorem gridRows_error {n k first : ℕ} {x : CmdError} (hk : k < n) (pass : ∀ i < k, rowPasses s t dim (first + i))
    (fails : gridRow s t dim (first + k) = .error x) : gridRows s t dim n first = .error x := by
  induction n generalizing first k with
  | zero => exact absurd hk (Nat.not_lt_zero k)
  | succ n ih =>
    cases k with
    | zero => exact (bind_error_iff ..).2 (.inl fails)
    | succ k =>
      obtain ⟨row, passed⟩ := gridRow_ok_of_rowPasses (pass 0 k.succ_pos)
      have next (i : ℕ) : first + (i + 1) = first + 1 + i := (Nat.succ_add_eq_add_succ first i).symm
      have rest := ih (Nat.lt_of_succ_lt_succ hk) (fun i hi => next i ▸ pass (i + 1) (Nat.succ_lt_succ hi)) (next k ▸ fails)
      exact (bind_error_iff ..).2 (.inr ⟨row, passed, (bind_error_iff ..).2 (.inl rest)⟩)

/-- Sampling fails as its first row that fails. -/
theorem sample_error {cause col : ℕ} (hy : y < dim) (pass : ∀ k < y, rowPasses s t dim k) (fails : rowFails s t dim y cause col) :
    sample s t dim = .error (geometryError cause col y) := by
  refine (bind_error_iff ..).2 (.inl (gridRows_error hy (fun i hi => ?_) ?_))
  · rw [Nat.zero_add]; exact pass i hi
  · rw [Nat.zero_add]; exact gridRow_error_of_rowFails fails

end

/-! ## Checks (R109, R110, R143) -/

section
variable {s : State}

theorem readT_of_invalid (invalid : s.tv = false) : readT s = .error (uninit 3 0) := by simp [readT, invalid]

theorem checkPointCount_of_gt {n : ℕ} (exceeds : 256 < n) : checkPointCount n = .error (err .argument 4) := by
  simp [checkPointCount, exceeds]

theorem checkImage_of_imgOK (legal : imgOK s = true) : checkImage s = .ok () := by simp [checkImage, legal]

theorem checkImage_of_not_imgOK (illegal : imgOK s = false) : checkImage s = .error (err .argument 2) := by
  simp [checkImage, illegal]

theorem checkDim_of_dimOK {d : ℕ} (legal : dimOK d = true) : checkDim d = .ok () := by simp [checkDim, legal]

theorem checkDim_of_not_dimOK {d : ℕ} (illegal : dimOK d = false) : checkDim d = .error (err .structural d) := by
  simp [checkDim, illegal]

/-- Points of PT, mapped, up to the first that is not finite (R108, R111). -/
theorem firstNonFinite_points (f : Point → Point) {n p : ℕ} (hp : p < n)
    (before : ∀ j < p, finitePoint (f (s.pt (2 * j), s.pt (2 * j + 1))) = true)
    (notFinite : finitePoint (f (s.pt (2 * p), s.pt (2 * p + 1))) = false) :
    firstNonFinite ((s.points n).map f) p := by
  have point {j : ℕ} (hj : j < n) : pointAt ((s.points n).map f) j = f (s.pt (2 * j), s.pt (2 * j + 1)) := by
    rw [pointAt, List.getD_eq_getElem _ _ (by simpa using hj)]
    simp
  refine ⟨by simpa using hp, ?_, fun j hj => ?_⟩
  · rw [point hp]; exact notFinite
  · rw [point (hj.trans hp)]; exact before j hj

end

/-! ## The failures (R104, R108–R119, R129–R133) -/

section
variable {s : State} {n : BitVec 12}

/-- A StructuralError carries the dimension (R109, R143). -/
theorem finish_checkDim_error (illegal : dimOK n.toNat = false) (rest : Unit → Except CmdError State) :
    finish s (checkDim n.toNat >>= rest) = .next (s.failed 0x01#8 (n.setWidth 32) 0#32) := by
  rw [← BitVec.ofNat_toNat]
  exact finish_bind_error (checkDim_of_not_dimOK illegal) rest

/-- S.GRID past its checks. -/
theorem exec_sGrid (valid : s.tv = true) (legal : dimOK n.toNat = true) (image : imgOK s = true) :
    exec (.sGrid n) s = finish s (do
      let m ← sample s s.t n.toNat
      return newMatrix s m n.toNat) :=
  (finish_bind_ok (readT_of_valid valid) _).trans ((finish_bind_ok (checkDim_of_dimOK legal) _).trans
    (finish_bind_ok (checkImage_of_imgOK image) _))

/-- S.QUAD past its checks. -/
theorem exec_sQuad (legal : dimOK n.toNat = true) (image : imgOK s = true) :
    exec (.sQuad n) s = finish s (do
      let t ← build s.q
      let m ← sample s t n.toNat
      return newMatrix (writeT s t) m n.toNat) :=
  (finish_bind_ok (checkDim_of_dimOK legal) _).trans (finish_bind_ok (checkImage_of_imgOK image) _)

/-- S.NUDGE past its checks. -/
theorem exec_sNudge (fits : n.toNat ≤ 256) (image : imgOK s = true) :
    exec (.sNudge n) s = finish s (do
      let pts ← nudge s.imgW.toNat s.imgH.toNat 0 (s.points n.toNat)
      return storePoints s pts) :=
  (finish_bind_ok (checkPointCount_of_le fits) _).trans (finish_bind_ok (checkImage_of_imgOK image) _)

/-- A command that fails in the nudge or the sampling leaves the record of its point and row (R111, R112). -/
theorem finish_geometryError {α : Type} {r : Except CmdError α} {cause index row : ℕ}
    (fails : r = .error (geometryError cause index row)) (rest : α → Except CmdError State) :
    finish s (r >>= rest) = .next (s.failed 0x05#8 (BitVec.ofNat 32 (cause * 2 ^ 24 + index)) (BitVec.ofNat 32 row)) :=
  finish_bind_error fails rest

/-- The record of a point of PT, with the sub-cause as a word (R108, R111). -/
theorem finish_pointError {α : Type} {r : Except CmdError α} {cause index : ℕ} (fails : r = .error (geometryError cause index 0))
    (rest : α → Except CmdError State) :
    finish s (r >>= rest) = .next (s.failed 0x05#8 (BitVec.ofNat 32 (cause * 2 ^ 24) + BitVec.ofNat 32 index) 0#32) := by
  rw [finish_geometryError fails, BitVec.ofNat_add]

theorem needMatrix_of_absent (absent : s.bmDim = 0#32) : needMatrix s = .error (uninit 4 0) := if_pos absent

theorem checkModule_of_absent (absent : s.bmDim = 0#32) (x y : ℕ) : checkModule s x y = .error (uninit 4 0) :=
  (bind_error_iff ..).2 (.inl (needMatrix_of_absent absent))

theorem checkModule_of_outside (present : s.bmDim ≠ 0#32) {x y : ℕ} (outside : s.bmDim.toNat ≤ x ∨ s.bmDim.toNat ≤ y) :
    checkModule s x y = .error (err .argument 5) := by
  refine (bind_error_iff ..).2 (.inr ⟨s.bmDim.toNat, if_neg present, ?_⟩)
  rw [← Bool.decide_or, decide_eq_true outside, failIf_true]

end

/-- Settles O50: each command is run check by check up to the one that fails; the sampler's errors are those of its first row that fails. -/
theorem geometryAndMatrixTraps : Obligations.GeometryAndMatrixTraps := by
  refine ⟨fun s n => ⟨?invalid, ?mapCount, ?mapFinite, ?nudgeCount, ?nudgeImage, ?nudgeFinite, ?nudgeReach, ?dimension, ?image⟩,
    fun s dim legal image => ⟨⟨?degenerate, ?quadRow⟩, ?gridRow⟩, fun s dim x y m => ⟨?initDimension, ?noMatrix, ?outside⟩⟩
  case invalid =>
    intro invalid
    exact ⟨finish_bind_error (readT_of_invalid invalid) _, finish_bind_error (readT_of_invalid invalid) _⟩
  case mapCount =>
    intro valid exceeds
    exact (finish_bind_ok (readT_of_valid valid) _).trans (finish_bind_error (checkPointCount_of_gt exceeds) _)
  case mapFinite =>
    intro p hp valid fits before notFinite
    have fails := checkFinite_error 0 (firstNonFinite_points (mapPt s.t) hp before notFinite) 0
    rw [Nat.zero_add] at fails
    exact (finish_bind_ok (readT_of_valid valid) _).trans ((finish_bind_ok (checkPointCount_of_le fits) _).trans
      (finish_pointError fails _))
  case nudgeCount =>
    intro exceeds
    exact finish_bind_error (checkPointCount_of_gt exceeds) _
  case nudgeImage =>
    intro fits illegal
    exact (finish_bind_ok (checkPointCount_of_le fits) _).trans (finish_bind_error (checkImage_of_not_imgOK illegal) _)
  case nudgeFinite =>
    intro p hp fits image before notFinite
    have first := firstNonFinite_points id hp before notFinite
    rw [List.map_id] at first
    exact (exec_sNudge fits image).trans (finish_pointError (nudge_error_of_firstNonFinite _ _ 0 first) _)
  case nudgeReach =>
    intro p fits image finite fails
    exact (exec_sNudge fits image).trans (finish_pointError (nudge_error_of_scanFails 0 finite fails) _)
  case dimension =>
    intro illegal
    exact ⟨fun valid => (finish_bind_ok (readT_of_valid valid) _).trans (finish_checkDim_error illegal _),
      finish_checkDim_error illegal _⟩
  case image =>
    intro legal illegal
    exact ⟨fun valid => (finish_bind_ok (readT_of_valid valid) _).trans ((finish_bind_ok (checkDim_of_dimOK legal) _).trans
        (finish_bind_error (checkImage_of_not_imgOK illegal) _)),
      (finish_bind_ok (checkDim_of_dimOK legal) _).trans (finish_bind_error (checkImage_of_not_imgOK illegal) _)⟩
  case degenerate =>
    intro degenerate
    exact (exec_sQuad legal image).trans (finish_geometryError (build_error degenerate) _)
  case quadRow =>
    intro row cause col inside toSquare toQuad product pass fails
    have built : build s.q = .ok (quadToQuad s.q) := (build_eq_ite s.q).trans (if_pos ⟨toSquare, toQuad, product⟩)
    exact (exec_sQuad legal image).trans ((finish_bind_ok built _).trans (finish_geometryError (sample_error inside pass fails) _))
  case gridRow =>
    intro row cause col valid inside pass fails
    exact (exec_sGrid valid legal image).trans (finish_geometryError (sample_error inside pass fails) _)
  case initDimension =>
    intro illegal
    refine finish_checkDim_error ?_ _
    simp only [dimOK, Config.dimMin, Config.dimMax, Bool.and_eq_false_iff, decide_eq_false_iff_not]
    omega
  case noMatrix =>
    intro absent i command
    have noMatrix := needMatrix_of_absent absent
    have noModule := checkModule_of_absent absent x.toNat y.toNat
    simp only [List.mem_cons, List.not_mem_nil, or_false] at command
    rcases command with rfl | rfl | rfl | rfl | rfl | rfl | rfl
    case inl | inr.inl | inr.inr.inl => exact finish_bind_error noModule _
    all_goals exact finish_bind_error noMatrix _
  case outside =>
    intro present beyond i command
    have noModule := checkModule_of_outside present beyond
    simp only [List.mem_cons, List.not_mem_nil, or_false] at command
    rcases command with rfl | rfl | rfl <;> exact finish_bind_error noModule _

end Sys2Proof.Machine

/-! PROOFS. 44_sampler.md R111: what the nudge makes of points that pass (O46). A scan changes each point it comes to as `nudgePoint` and no other; so does the nudge, which comes to the points of its front scan and to those behind the last point inside the image. -/

namespace Sys2Proof.Machine

/-! ## One coordinate, one point (R111) -/

theorem ffloor_fofNat {n : ℕ} (h : n ≤ 2 ^ 53) : ffloor (fofNat n) = n := by
  obtain ⟨isFinite, value⟩ := fofNat_exact h
  rw [ffloor_eq_floor isFinite, value, Int.floor_natCast]

theorem ffloor_fzero : ffloor fzero = 0 := by
  obtain ⟨isFinite, value⟩ := (isZeroF_iff fzero).1 rfl
  rw [ffloor_eq_floor isFinite, value, Int.floor_zero]

theorem nudgedTo_nudgeAxis (size : ℕ) (v : F64) : nudgedTo size v (nudgeAxis size v).1 := by
  unfold nudgeAxis
  split_ifs with low high
  · exact ⟨fun _ => rfl, fun high => by omega, fun notLow => absurd low notLow⟩
  · exact ⟨fun low' => absurd low' low, fun _ => rfl, fun _ notHigh => absurd high notHigh⟩
  · exact ⟨fun low' => absurd low' low, fun high' => absurd high' high, fun _ _ => rfl⟩

/-- What the nudge makes of a coordinate, as its three cases. -/
theorem nudgedTo_cases {size : ℕ} {v r : F64} (h : nudgedTo size v r) :
    r = v ∨ (ffloor v = -1 ∧ r = fzero) ∨ (ffloor v = size ∧ r = fofNat (size - 1)) := by
  obtain ⟨low, high, neither⟩ := h
  by_cases isLow : ffloor v = -1
  · exact .inr (.inl ⟨isLow, low isLow⟩)
  · by_cases isHigh : ffloor v = size
    · exact .inr (.inr ⟨isHigh, high isHigh⟩)
    · exact .inl (neither isLow isHigh)

/-- A legal width or height of an image (R110). -/
structure ImageSize (size : ℕ) : Prop where
  positive : 1 ≤ size
  fits : size ≤ 2048

/-- A coordinate within reach is inside the image after the nudge. -/
theorem ffloor_of_nudgedTo {size : ℕ} {v r : F64} (h : nudgedTo size v r) (legal : ImageSize size)
    (low : -1 ≤ ffloor v) (high : ffloor v ≤ size) : 0 ≤ ffloor r ∧ ffloor r < size := by
  obtain ⟨fromLow, fromHigh, neither⟩ := h
  obtain ⟨positive, fits⟩ := legal
  by_cases isLow : ffloor v = -1
  · rw [fromLow isLow, ffloor_fzero]
    omega
  · by_cases isHigh : ffloor v = size
    · rw [fromHigh isHigh, ffloor_fofNat (by omega)]
      omega
    · rw [neither isLow isHigh]
      omega

theorem finite_of_nudgedTo {size : ℕ} {v r : F64} (h : nudgedTo size v r) (legal : ImageSize size) (hv : finite v = true) :
    finite r = true := by
  rcases nudgedTo_cases h with rfl | ⟨-, rfl⟩ | ⟨-, rfl⟩
  · exact hv
  · decide
  · have fits := legal.fits
    exact (fofNat_exact (by omega)).1

/-- The point that `one(p)` leaves (R111): both axes nudged. -/
def nudgePoint (w h : ℕ) (pt : Point) : Point := ((nudgeAxis w pt.1).1, (nudgeAxis h pt.2).1)

section
variable {w h : ℕ} {pt : Point}

theorem withinReach_of_inside (inside : insideImage w h pt) : withinReach w h pt := by omega

theorem nudgePoint_of_inside (inside : insideImage w h pt) : nudgePoint w h pt = pt := by
  obtain ⟨lowX, highX, lowY, highY⟩ := inside
  rw [nudgePoint, nudgeAxis_inside lowX highX, nudgeAxis_inside lowY highY]

theorem nudgeOne_outside (row p : ℕ) (reach : withinReach w h pt) (outside : ¬ insideImage w h pt) :
    nudgeOne w h row p pt = .ok (nudgePoint w h pt, true) := by
  obtain ⟨q, nudged⟩ := nudgeOne_nudged row p reach outside
  have whole := nudgeOne_ok row p reach
  rw [nudged] at whole
  injection whole with whole
  rw [nudged, (Prod.mk.inj whole).1, nudgePoint]

theorem nudgePoint_inside (hw : ImageSize w) (hh : ImageSize h) (reach : withinReach w h pt) :
    insideImage w h (nudgePoint w h pt) := by
  obtain ⟨lowX, highX, lowY, highY⟩ := reach
  obtain ⟨fromX, toX⟩ := ffloor_of_nudgedTo (nudgedTo_nudgeAxis w pt.1) hw lowX highX
  obtain ⟨fromY, toY⟩ := ffloor_of_nudgedTo (nudgedTo_nudgeAxis h pt.2) hh lowY highY
  exact ⟨fromX, toX, fromY, toY⟩

theorem finitePoint_nudgePoint (hw : ImageSize w) (hh : ImageSize h) (isFinite : finitePoint pt = true) :
    finitePoint (nudgePoint w h pt) = true := by
  obtain ⟨finiteX, finiteY⟩ := (Bool.and_eq_true ..).mp isFinite
  exact (Bool.and_eq_true ..).mpr ⟨finite_of_nudgedTo (nudgedTo_nudgeAxis w pt.1) hw finiteX,
    finite_of_nudgedTo (nudgedTo_nudgeAxis h pt.2) hh finiteY⟩

end

/-! ## What a scan leaves (R111) -/

/-- The points that a scan from the front leaves, where none it comes to is out of reach. -/
def scanPoints (w h : ℕ) : List Point → List Point
  | [] => []
  | pt :: pts => if insideImage w h pt then pt :: pts else nudgePoint w h pt :: scanPoints w h pts

/-- A scan from the front comes to point p: it has nudged every point before it. -/
def FrontReaches (w h : ℕ) (pts : List Point) (p : ℕ) : Prop := ∀ i < p, ¬ insideImage w h (pointAt pts i)

/-- A scan from the back comes to point p: it has nudged every point behind it. -/
def BackReaches (w h : ℕ) (pts : List Point) (p : ℕ) : Prop :=
  ∀ j, p < j → j < pts.length → ¬ insideImage w h (pointAt pts j)

theorem scanned_iff (w h : ℕ) (pts : List Point) (p : ℕ) :
    scanned w h pts p ↔ FrontReaches w h pts p ∨ BackReaches w h pts p := Iff.rfl

section
variable {w h : ℕ} {pts : List Point} {p : ℕ}

theorem pointAt_eq_getElem (hp : p < pts.length) : pointAt pts p = pts[p] := List.getD_eq_getElem _ _ hp

theorem frontReaches_cons_succ {pt : Point} :
    FrontReaches w h (pt :: pts) (p + 1) ↔ ¬ insideImage w h pt ∧ FrontReaches w h pts p := by
  refine ⟨fun reached => ⟨reached 0 p.succ_pos, fun i hi => reached (i + 1) (Nat.succ_lt_succ hi)⟩, ?_⟩
  rintro ⟨head, tail⟩ i hi
  cases i with
  | zero => exact head
  | succ i => exact tail i (Nat.lt_of_succ_lt_succ hi)

theorem FrontReaches.before {q : ℕ} (reached : FrontReaches w h pts q) (hp : p ≤ q) : FrontReaches w h pts p :=
  fun i hi => reached i (hi.trans_le hp)

@[simp] theorem length_scanPoints : (scanPoints w h pts).length = pts.length := by
  induction pts with
  | nil => rfl
  | cons pt pts ih =>
    rw [scanPoints]
    split_ifs
    · rfl
    · simp [ih]

theorem pointAt_scanPoints_of_reached (hp : p < pts.length) (reached : FrontReaches w h pts p) :
    pointAt (scanPoints w h pts) p = nudgePoint w h (pointAt pts p) := by
  induction pts generalizing p with
  | nil => exact absurd hp (Nat.not_lt_zero p)
  | cons pt pts ih =>
    rw [scanPoints]
    cases p with
    | zero =>
      split_ifs with stop
      · exact (nudgePoint_of_inside stop).symm
      · rfl
    | succ p =>
      obtain ⟨outside, reached⟩ := frontReaches_cons_succ.1 reached
      rw [if_neg outside]
      exact ih (Nat.lt_of_succ_lt_succ hp) reached

theorem pointAt_scanPoints_of_not_reached (unreached : ¬ FrontReaches w h pts p) :
    pointAt (scanPoints w h pts) p = pointAt pts p := by
  induction pts generalizing p with
  | nil => rfl
  | cons pt pts ih =>
    rw [scanPoints]
    split_ifs with stop
    · rfl
    · cases p with
      | zero => exact absurd (fun i hi => absurd hi (Nat.not_lt_zero i)) unreached
      | succ p => exact ih fun reached => unreached (frontReaches_cons_succ.2 ⟨stop, reached⟩)

/-- A scan that comes to no point out of reach passes. -/
theorem nudgeScan_ok (row : ℕ) {cs : List (ℕ × Point)}
    (passes : ∀ p < cs.length, FrontReaches w h (cs.map Prod.snd) p → withinReach w h (pointAt (cs.map Prod.snd) p)) :
    ∃ out, nudgeScan w h row cs = .ok out ∧ out.map Prod.snd = scanPoints w h (cs.map Prod.snd) := by
  induction cs with
  | nil => exact ⟨[], rfl, rfl⟩
  | cons c cs ih =>
    have reach : withinReach w h c.2 := passes 0 (Nat.succ_pos _) fun i hi => absurd hi (Nat.not_lt_zero i)
    rw [List.map_cons, scanPoints]
    split_ifs with stop
    · exact ⟨c :: cs, nudgeScan_cons_inside row stop cs, rfl⟩
    · obtain ⟨out, scan, points⟩ := ih fun p hp reached =>
        passes (p + 1) (Nat.succ_lt_succ hp) (frontReaches_cons_succ.2 ⟨stop, reached⟩)
      refine ⟨(c.1, nudgePoint w h c.2) :: out, ?_, congrArg _ points⟩
      exact (bind_ok_iff ..).2 ⟨_, nudgeOne_outside row c.1 reach stop, (bind_ok_iff ..).2 ⟨out, scan, rfl⟩⟩

/-! ## The scan from the back (R111) -/

theorem pointAt_reverse (hp : p < pts.length) : pointAt pts.reverse (pts.length - 1 - p) = pointAt pts p := by
  rw [pointAt, List.getD_reverse _ (by omega)]
  congr 1
  omega

theorem frontReaches_reverse (hp : p < pts.length) :
    FrontReaches w h pts.reverse (pts.length - 1 - p) ↔ BackReaches w h pts p := by
  constructor
  · intro reached j behind hj
    rw [← pointAt_reverse hj]
    exact reached _ (by omega)
  · intro reached i hi
    have point := pointAt_reverse (pts := pts) (p := pts.length - 1 - i) (by omega)
    have number : pts.length - 1 - (pts.length - 1 - i) = i := by omega
    rw [number] at point
    rw [point]
    exact reached _ (by omega) (by omega)

/-- The points that a scan from the back leaves, where none it comes to is out of reach. -/
def scanPointsBack (w h : ℕ) (pts : List Point) : List Point := (scanPoints w h pts.reverse).reverse

@[simp] theorem length_scanPointsBack : (scanPointsBack w h pts).length = pts.length := by simp [scanPointsBack]

theorem pointAt_scanPointsBack (hp : p < pts.length) :
    pointAt (scanPointsBack w h pts) p = pointAt (scanPoints w h pts.reverse) (pts.length - 1 - p) := by
  have hs : p < (scanPoints w h pts.reverse).length := by simpa using hp
  rw [scanPointsBack, pointAt, List.getD_reverse _ hs, length_scanPoints, List.length_reverse]

theorem pointAt_scanPointsBack_of_reached (hp : p < pts.length) (reached : BackReaches w h pts p) :
    pointAt (scanPointsBack w h pts) p = nudgePoint w h (pointAt pts p) := by
  rw [pointAt_scanPointsBack hp, pointAt_scanPoints_of_reached (by rw [List.length_reverse]; omega) ((frontReaches_reverse hp).2 reached),
    pointAt_reverse hp]

theorem pointAt_scanPointsBack_of_not_reached (hp : p < pts.length) (unreached : ¬ BackReaches w h pts p) :
    pointAt (scanPointsBack w h pts) p = pointAt pts p := by
  rw [pointAt_scanPointsBack hp, pointAt_scanPoints_of_not_reached (mt (frontReaches_reverse hp).1 unreached), pointAt_reverse hp]

/-- From a point on that the front scan does not come to, it leaves the points as they were. -/
theorem backReaches_scanPoints (unreached : ¬ FrontReaches w h pts p) :
    BackReaches w h (scanPoints w h pts) p ↔ BackReaches w h pts p := by
  have kept {j : ℕ} (behind : p < j) : pointAt (scanPoints w h pts) j = pointAt pts j :=
    pointAt_scanPoints_of_not_reached fun reached => unreached (reached.before behind.le)
  simp only [BackReaches, length_scanPoints]
  exact forall₃_congr fun j behind _ => by rw [kept behind]

end

/-! ## Both scans (R111) -/

/-- The points that the nudge leaves where it passes. -/
def nudgedPoints (w h : ℕ) (pts : List Point) : List Point := scanPointsBack w h (scanPoints w h pts)

section
variable {w h : ℕ} {pts : List Point} {p : ℕ}

@[simp] theorem length_nudgedPoints : (nudgedPoints w h pts).length = pts.length := by simp [nudgedPoints]

theorem pointAt_nudgedPoints_of_not_scanned (hp : p < pts.length) (unscanned : ¬ scanned w h pts p) :
    pointAt (nudgedPoints w h pts) p = pointAt pts p := by
  rw [scanned_iff, not_or] at unscanned
  obtain ⟨notFront, notBack⟩ := unscanned
  rw [nudgedPoints, pointAt_scanPointsBack_of_not_reached (by rwa [length_scanPoints]) (mt (backReaches_scanPoints notFront).1 notBack),
    pointAt_scanPoints_of_not_reached notFront]

/-- A point that a scan comes to is nudged; the second scan changes nothing of what the first has nudged, which is inside the image. -/
theorem pointAt_nudgedPoints_of_scanned (hw : ImageSize w) (hh : ImageSize h) (hp : p < pts.length)
    (reach : withinReach w h (pointAt pts p)) (scan : scanned w h pts p) :
    pointAt (nudgedPoints w h pts) p = nudgePoint w h (pointAt pts p) := by
  have hs : p < (scanPoints w h pts).length := by rwa [length_scanPoints]
  rw [nudgedPoints]
  by_cases front : FrontReaches w h pts p
  · have first := pointAt_scanPoints_of_reached hp front
    by_cases back : BackReaches w h (scanPoints w h pts) p
    · rw [pointAt_scanPointsBack_of_reached hs back, first, nudgePoint_of_inside (nudgePoint_inside hw hh reach)]
    · rw [pointAt_scanPointsBack_of_not_reached hs back, first]
  · have back := ((scanned_iff ..).1 scan).resolve_left front
    rw [pointAt_scanPointsBack_of_reached hs ((backReaches_scanPoints front).2 back), pointAt_scanPoints_of_not_reached front]

/-! ## When the nudge passes (R111) -/

theorem scanned_of_scanFails (fails : scanFails w h pts p) : scanned w h pts p := by
  obtain ⟨-, -, front | ⟨-, back⟩⟩ := fails
  · exact .inl fun i hi => (front i hi).2
  · exact .inr fun j behind hj => (back j behind hj).2

/-- Where the front scan comes to a point out of reach, it fails at the first such point. -/
theorem exists_scanFails_of_front (hp : p < pts.length) (out : ¬ withinReach w h (pointAt pts p))
    (reached : FrontReaches w h pts p) : ∃ q, scanFails w h pts q := by
  have outside : ∃ q, ¬ withinReach w h (pointAt pts q) := ⟨p, out⟩
  have first : Nat.find outside ≤ p := Nat.find_min' outside out
  exact ⟨Nat.find outside, first.trans_lt hp, Nat.find_spec outside,
    .inl fun i hi => ⟨not_not.1 (Nat.find_min outside hi), reached i (hi.trans_le first)⟩⟩

/-- Where the back scan comes to a point out of reach and the front scan to none, it fails at the last such point. -/
theorem exists_scanFails_of_back {p : ℕ} (hp : p < pts.length) (out : ¬ withinReach w h (pointAt pts p))
    (reached : BackReaches w h pts p) : ∃ q, scanFails w h pts q := by
  by_contra! passes
  have front {k : ℕ} (hk : k < pts.length) (frontReached : FrontReaches w h pts k) : withinReach w h (pointAt pts k) := by
    by_contra outK
    exact (exists_scanFails_of_front hk outK frontReached).elim passes
  have last : ∀ j, p < j → j < pts.length → withinReach w h (pointAt pts j) := by
    intro j behind hj
    by_contra outJ
    exact (exists_scanFails_of_back hj outJ fun k hk => reached k (behind.trans hk)).elim passes
  have stops : ∃ i, i < p ∧ insideImage w h (pointAt pts i) := by
    by_contra! runs
    exact out (front hp runs)
  obtain ⟨beforeP, inside⟩ := Nat.find_spec stops
  have unstopped {k : ℕ} (hk : k < Nat.find stops) : ¬ insideImage w h (pointAt pts k) :=
    fun insideK => Nat.find_min stops hk ⟨hk.trans beforeP, insideK⟩
  refine passes p ⟨hp, out, .inr ⟨⟨Nat.find stops, beforeP, inside, fun k hk => ?_⟩, fun j behind hj => ?_⟩⟩
  · exact front (hk.trans (beforeP.trans hp)) fun i hi => unstopped (hi.trans hk)
  · exact ⟨last j behind hj, reached j behind hj⟩
termination_by pts.length - p

/-- Both scans pass exactly where neither comes to a point out of reach. -/
theorem not_scanFails_iff : (∀ p, ¬ scanFails w h pts p) ↔
    ∀ p < pts.length, scanned w h pts p → withinReach w h (pointAt pts p) := by
  constructor
  · rintro none p hp (front | back) <;> by_contra out
    · exact (exists_scanFails_of_front hp out front).elim none
    · exact (exists_scanFails_of_back hp out back).elim none
  · rintro reach p fails
    exact fails.2.1 (reach p fails.1 (scanned_of_scanFails fails))

theorem exists_firstNonFinite {pt : Point} (member : pt ∈ pts) (notFinite : finitePoint pt = false) :
    ∃ p, firstNonFinite pts p := by
  obtain ⟨i, hi, rfl⟩ := List.mem_iff_getElem.1 member
  have somewhere : ∃ p, p < pts.length ∧ finitePoint (pointAt pts p) = false :=
    ⟨i, hi, by rw [pointAt_eq_getElem hi, notFinite]⟩
  obtain ⟨hp, atP⟩ := Nat.find_spec somewhere
  refine ⟨Nat.find somewhere, hp, atP, fun j hj => ?_⟩
  have earlier := Nat.find_min somewhere hj
  rwa [not_and, Bool.not_eq_false, forall_prop_of_true (hj.trans hp)] at earlier

theorem map_snd_numbered (k : ℕ) (pts : List Point) : (numbered k pts).map Prod.snd = pts := by
  rw [numbered, List.map_map]
  exact List.zipIdx_map_fst k pts

/-- The back scan comes only to points that the front scan has nudged, and to points that are as they were. -/
theorem backScan_passes (hw : ImageSize w) (hh : ImageSize h)
    (reach : ∀ p < pts.length, scanned w h pts p → withinReach w h (pointAt pts p)) (hp : p < pts.length)
    (back : BackReaches w h (scanPoints w h pts) p) : withinReach w h (pointAt (scanPoints w h pts) p) := by
  by_cases front : FrontReaches w h pts p
  · rw [pointAt_scanPoints_of_reached hp front]
    exact withinReach_of_inside (nudgePoint_inside hw hh (reach p hp (.inl front)))
  · rw [pointAt_scanPoints_of_not_reached front]
    exact reach p hp (.inr ((backReaches_scanPoints front).1 back))

theorem nudge_eq_ok (row : ℕ) (hw : ImageSize w) (hh : ImageSize h)
    (isFinite : ∀ pt ∈ pts, finitePoint pt = true) (passes : ∀ p, ¬ scanFails w h pts p) :
    nudge w h row pts = .ok (nudgedPoints w h pts) := by
  have reach := not_scanFails_iff.1 passes
  have count : (numbered 0 pts).length = pts.length := by simp [numbered]
  have frontPasses : ∀ p < (numbered 0 pts).length, FrontReaches w h ((numbered 0 pts).map Prod.snd) p →
      withinReach w h (pointAt ((numbered 0 pts).map Prod.snd) p) := by
    rw [count, map_snd_numbered]
    exact fun p hp front => reach p hp (.inl front)
  obtain ⟨front, frontScan, frontPoints⟩ := nudgeScan_ok row frontPasses
  rw [map_snd_numbered] at frontPoints
  have frontCount : front.length = pts.length := by
    rw [← List.length_map Prod.snd, frontPoints, length_scanPoints]
  have backPasses : ∀ p < front.reverse.length, FrontReaches w h (front.reverse.map Prod.snd) p →
      withinReach w h (pointAt (front.reverse.map Prod.snd) p) := by
    rw [List.length_reverse, frontCount, List.map_reverse, frontPoints]
    intro i hi reached
    have hp : pts.length - 1 - i < (scanPoints w h pts).length := by rw [length_scanPoints]; omega
    have number : (scanPoints w h pts).length - 1 - (pts.length - 1 - i) = i := by rw [length_scanPoints]; omega
    rw [← number] at reached ⊢
    rw [pointAt_reverse hp]
    exact backScan_passes hw hh reach (by omega) ((frontReaches_reverse hp).1 reached)
  obtain ⟨back, backScan, backPoints⟩ := nudgeScan_ok row backPasses
  rw [List.map_reverse, frontPoints] at backPoints
  rw [nudge_of_finite w h row isFinite]
  refine (bind_ok_iff ..).2 ⟨front, frontScan, (bind_ok_iff ..).2 ⟨back, backScan, congrArg Except.ok ?_⟩⟩
  show back.reverse.map Prod.snd = nudgedPoints w h pts
  rw [List.map_reverse, backPoints, nudgedPoints, scanPointsBack]

theorem passes_of_nudge_ok {row : ℕ} {out : List Point} (passed : nudge w h row pts = .ok out) :
    (∀ pt ∈ pts, finitePoint pt = true) ∧ ∀ p, ¬ scanFails w h pts p := by
  have isFinite : ∀ pt ∈ pts, finitePoint pt = true := by
    intro pt member
    by_contra notFinite
    obtain ⟨p, first⟩ := exists_firstNonFinite member (Bool.eq_false_iff.2 notFinite)
    exact nomatch passed.symm.trans (nudge_error_of_firstNonFinite w h row first)
  exact ⟨isFinite, fun p fails => nomatch passed.symm.trans (nudge_error_of_scanFails row isFinite fails)⟩

end

/-- What the nudge makes of point p: nudged in both axes where a scan comes to it, the point itself elsewhere. -/
theorem nudgedPoints_getElem {w h : ℕ} (hw : ImageSize w) (hh : ImageSize h) {pts : List Point}
    (passes : ∀ p, ¬ scanFails w h pts p) {p : ℕ} (hp : p < pts.length) (hq : p < (nudgedPoints w h pts).length) :
    (scanned w h pts p → withinReach w h pts[p] ∧ (nudgedPoints w h pts)[p] = nudgePoint w h pts[p]) ∧
    (¬ scanned w h pts p → (nudgedPoints w h pts)[p] = pts[p]) := by
  rw [← pointAt_eq_getElem hp, ← pointAt_eq_getElem hq]
  refine ⟨fun scan => ?_, pointAt_nudgedPoints_of_not_scanned hp⟩
  have reach := not_scanFails_iff.1 passes p hp scan
  exact ⟨reach, pointAt_nudgedPoints_of_scanned hw hh hp reach scan⟩

/-- The first point and the last are always scanned. -/
theorem scanned_of_end {w h : ℕ} {pts : List Point} {p : ℕ} (isEnd : p = 0 ∨ p + 1 = pts.length) : scanned w h pts p := by
  rcases isEnd with rfl | last
  · exact .inl fun i hi => absurd hi (Nat.not_lt_zero i)
  · exact .inr fun j behind hj => by omega

/-- Points inside the image stay: the scans stop at the first and the last. -/
theorem nudgedPoints_of_inside {w h : ℕ} {pts : List Point} (inside : ∀ pt ∈ pts, insideImage w h pt) :
    nudgedPoints w h pts = pts := by
  have keeps {qs : List Point} (inside : ∀ pt ∈ qs, insideImage w h pt) : scanPoints w h qs = qs := by
    cases qs with
    | nil => rfl
    | cons q qs => exact if_pos (inside q List.mem_cons_self)
  have reversed : ∀ pt ∈ pts.reverse, insideImage w h pt := fun pt member => inside pt (List.mem_reverse.1 member)
  rw [nudgedPoints, keeps inside, scanPointsBack, keeps reversed, List.reverse_reverse]

theorem not_scanFails_of_inside {w h : ℕ} {pts : List Point} (inside : ∀ pt ∈ pts, insideImage w h pt) (p : ℕ) :
    ¬ scanFails w h pts p := by
  rintro ⟨hp, out, -⟩
  rw [pointAt_eq_getElem hp] at out
  exact out (withinReach_of_inside (inside _ (List.getElem_mem hp)))

/-- Settles O46: points that pass become `nudgedPoints`, read point by point; the failures are those of the scans. -/
theorem nudgeRule : Obligations.NudgeRule := by
  intro w h row pts positiveW fitsW positiveH fitsH
  have hw : ImageSize w := ⟨positiveW, fitsW⟩
  have hh : ImageSize h := ⟨positiveH, fitsH⟩
  refine ⟨?passing, ?inside, ?passes, fun p => nudge_error_of_firstNonFinite w h row,
    fun p finite fails => nudge_error_of_scanFails row finite fails⟩
  case passing =>
    intro out passed
    obtain ⟨isFinite, passes⟩ := passes_of_nudge_ok passed
    cases passed.symm.trans (nudge_eq_ok row hw hh isFinite passes)
    refine ⟨length_nudgedPoints, fun p hp hq => ?_⟩
    obtain ⟨isNudged, isKept⟩ := nudgedPoints_getElem hw hh passes hp hq
    have finiteP := isFinite _ (List.getElem_mem hp)
    have ends (isEnd : p = 0 ∨ p + 1 = pts.length) : insideImage w h (nudgedPoints w h pts)[p] := by
      obtain ⟨reach, nudged⟩ := isNudged (scanned_of_end isEnd)
      rw [nudged]
      exact nudgePoint_inside hw hh reach
    by_cases scan : scanned w h pts p
    · obtain ⟨-, nudged⟩ := isNudged scan
      have toX := nudgedTo_nudgeAxis w pts[p].1
      have toY := nudgedTo_nudgeAxis h pts[p].2
      refine ⟨?_, ?_, fun _ => ?_, isKept, ?_, ends⟩ <;> rw [nudged]
      · exact nudgedTo_cases toX
      · exact nudgedTo_cases toY
      · exact ⟨toX, toY⟩
      · exact finitePoint_nudgePoint hw hh finiteP
    · have kept := isKept scan
      exact ⟨.inl (congrArg Prod.fst kept), .inl (congrArg Prod.snd kept), fun isScanned => absurd isScanned scan, isKept,
        kept ▸ finiteP, ends⟩
  case inside =>
    intro fine
    have inside : ∀ pt ∈ pts, insideImage w h pt := fun pt member => (fine pt member).2
    rw [nudge_eq_ok row hw hh (fun pt member => (fine pt member).1) (not_scanFails_of_inside inside),
      nudgedPoints_of_inside inside]
  case passes =>
    exact ⟨fun ⟨_, passed⟩ => passes_of_nudge_ok passed,
      fun ⟨isFinite, passes⟩ => ⟨_, nudge_eq_ok row hw hh isFinite passes⟩⟩

end Sys2Proof.Machine

/-! PROOFS. 44_sampler.md R112: when sampling succeeds and what it samples (O47). -/

namespace Sys2Proof.Machine

section
variable {s : State} {t : Transform} {dim y : ℕ}

/-! ## A row (R112) -/

/-- The pixel that a point inside the image floors to (R112). -/
def pixelUnder (s : State) (pt : Point) : Bool := s.pix ((ffloor pt.1).toNat + s.imgW.toNat * (ffloor pt.2).toNat)

theorem samplePixel_eq_ok {pt : Point} (inside : insideImage s.imgW.toNat s.imgH.toNat pt) (y x : ℕ) :
    samplePixel s y x pt = .ok (pixelUnder s pt) := by
  refine if_neg ?_
  simp only [Bool.or_eq_true, decide_eq_true_eq]
  omega

/-- A row is sampled exactly where every point lies inside the image, pixel by pixel. -/
theorem sampleRow_ok_iff {pts : List Point} {bits : List Bool} (y x : ℕ) :
    sampleRow s y x pts = .ok bits ↔ (∀ pt ∈ pts, insideImage s.imgW.toNat s.imgH.toNat pt) ∧ bits = pts.map (pixelUnder s) := by
  induction pts generalizing x bits with
  | nil => simp [sampleRow, eq_comm]
  | cons pt pts ih =>
    rw [sampleRow]
    by_cases inside : insideImage s.imgW.toNat s.imgH.toNat pt
    · have first := samplePixel_eq_ok inside y x
      rw [first, List.forall_mem_cons, and_iff_right inside, List.map_cons]
      constructor
      · intro sampled
        obtain ⟨bit, isBit, sampled⟩ := (bind_ok_iff ..).1 sampled
        obtain ⟨rest, isRest, whole⟩ := (bind_ok_iff ..).1 sampled
        obtain ⟨insideRest, rfl⟩ := (ih (x + 1)).1 isRest
        cases isBit
        cases whole
        exact ⟨insideRest, rfl⟩
      · rintro ⟨insideRest, rfl⟩
        exact (bind_ok_iff ..).2 ⟨_, rfl, (bind_ok_iff ..).2 ⟨_, (ih (x + 1)).2 ⟨insideRest, rfl⟩, rfl⟩⟩
    · simp only [samplePixel_outside inside, List.forall_mem_cons, inside, false_and, iff_false]
      exact nofun

/-- Row y of the matrix: the pixels under the row's nudged points, which all lie inside the image. -/
def RowSampled (s : State) (t : Transform) (dim y : ℕ) (row : BitVec 177) : Prop :=
  ∃ pts, nudge s.imgW.toNat s.imgH.toNat y (gridPoints t dim y) = .ok pts ∧
    (∀ pt ∈ pts, insideImage s.imgW.toNat s.imgH.toNat pt) ∧ row = rowOf (fun x => (pts.map (pixelUnder s)).getD x false) dim

theorem gridRow_ok_iff {row : BitVec 177} : gridRow s t dim y = .ok row ↔ RowSampled s t dim y row := by
  rw [gridRow_eq, bind_ok_iff]
  refine exists_congr fun pts => and_congr_right fun _ => ?_
  constructor
  · intro sampled
    obtain ⟨bits, isBits, whole⟩ := (bind_ok_iff ..).1 sampled
    obtain ⟨inside, rfl⟩ := (sampleRow_ok_iff ..).1 isBits
    cases whole
    exact ⟨inside, rfl⟩
  · rintro ⟨inside, rfl⟩
    exact (bind_ok_iff ..).2 ⟨_, (sampleRow_ok_iff ..).2 ⟨inside, rfl⟩, rfl⟩

theorem rowPasses_iff : rowPasses s t dim y ↔ ∃ row, RowSampled s t dim y row := by
  constructor
  · rintro ⟨pts, nudged, inside⟩
    exact ⟨_, pts, nudged, inside, rfl⟩
  · rintro ⟨row, pts, nudged, inside, -⟩
    exact ⟨pts, nudged, inside⟩

/-! ## The grid (R112) -/

theorem gridRows_ok_iff {n first : ℕ} {rows : List (BitVec 177)} : gridRows s t dim n first = .ok rows ↔
    rows.length = n ∧ ∀ k < n, RowSampled s t dim (first + k) (rows.getD k 0#177) := by
  induction n generalizing first rows with
  | zero =>
    rw [gridRows, List.length_eq_zero_iff, and_iff_left (fun k hk => absurd hk (Nat.not_lt_zero k)), Except.ok.injEq, eq_comm]
  | succ n ih =>
    have next (k : ℕ) : first + (k + 1) = first + 1 + k := (Nat.succ_add_eq_add_succ first k).symm
    constructor
    · intro sampled
      obtain ⟨row, isRow, sampled⟩ := (bind_ok_iff ..).1 sampled
      obtain ⟨rest, isRest, whole⟩ := (bind_ok_iff ..).1 sampled
      obtain ⟨count, eachRow⟩ := ih.1 isRest
      cases whole
      refine ⟨congrArg Nat.succ count, fun k hk => ?_⟩
      cases k with
      | zero => exact gridRow_ok_iff.1 isRow
      | succ k => exact next k ▸ eachRow k (Nat.lt_of_succ_lt_succ hk)
    · rintro ⟨count, eachRow⟩
      obtain ⟨row, rest, rfl⟩ := List.exists_cons_of_length_eq_add_one count
      have isRow : gridRow s t dim first = .ok row := gridRow_ok_iff.2 (eachRow 0 n.succ_pos)
      have isRest : gridRows s t dim n (first + 1) = .ok rest :=
        ih.2 ⟨Nat.succ.inj count, fun k hk => next k ▸ eachRow (k + 1) (Nat.succ_lt_succ hk)⟩
      exact (bind_ok_iff ..).2 ⟨row, isRow, (bind_ok_iff ..).2 ⟨rest, isRest, rfl⟩⟩

/-- The rows of a grid of n rows that pass. -/
theorem exists_rows {n : ℕ} (pass : ∀ y < n, rowPasses s t dim y) :
    ∃ rows : List (BitVec 177), rows.length = n ∧ ∀ y < n, RowSampled s t dim y (rows.getD y 0#177) := by
  choose! row sampled using fun y hy => rowPasses_iff.1 (pass y hy)
  refine ⟨(List.range n).map row, by simp, fun y hy => ?_⟩
  have entry : ((List.range n).map row).getD y 0#177 = row y := by
    rw [List.getD_eq_getElem _ _ (by simpa using hy), List.getElem_map, List.getElem_range]
  rw [entry]
  exact sampled y hy

theorem sample_ok_iff {m : BitMatrix} : sample s t dim = .ok m ↔
    ∃ rows : List (BitVec 177), rows.length = dim ∧ (∀ y < dim, RowSampled s t dim y (rows.getD y 0#177)) ∧
      matrixOf (fun y => rows.getD y 0#177) dim = m := by
  rw [sample, bind_ok_iff]
  refine exists_congr fun rows => ?_
  rw [gridRows_ok_iff, and_assoc]
  simp only [Nat.zero_add, pure, Except.pure, Except.ok.injEq]

end

theorem nudge_length {w h row : ℕ} {pts out : List Point} (passed : nudge w h row pts = .ok out) : out.length = pts.length := by
  have answers := nudge_answers w h row pts
  rwa [passed] at answers

/-- Module (x, y) of a sampled row: the pixel under its point (R112). -/
theorem getLsbD_rowOf_pixels (s : State) {pts : List Point} {dim x : ℕ} (fits : dim ≤ 177) (count : pts.length = dim)
    (hx : x < pts.length) :
    (rowOf (fun x => (pts.map (pixelUnder s)).getD x false) dim).getLsbD x = pixelUnder s pts[x] := by
  have inDim : x < dim := by omega
  have inRow : x < 177 := by omega
  rw [rowOf_getLsbD, decide_eq_true inDim, decide_eq_true inRow, List.getD_eq_getElem _ _ (by simpa using hx), List.getElem_map]
  rfl

/-- Settles O47: a grid is its rows, each sampled exactly where it passes. -/
theorem sampledMatrix : Obligations.SampledMatrix := by
  intro s t dim fits
  refine ⟨⟨?rowsPass, ?succeeds⟩, fun m sampled => ?modules⟩
  case rowsPass =>
    rintro ⟨m, sampled⟩ y hy
    obtain ⟨rows, -, eachRow, -⟩ := sample_ok_iff.1 sampled
    exact rowPasses_iff.2 ⟨_, eachRow y hy⟩
  case succeeds =>
    intro pass
    obtain ⟨rows, count, eachRow⟩ := exists_rows pass
    exact ⟨_, sample_ok_iff.2 ⟨rows, count, eachRow, rfl⟩⟩
  case modules =>
    obtain ⟨rows, count, eachRow, rfl⟩ := sample_ok_iff.1 sampled
    refine ⟨fun y hy => ?_, fun x y outside => ?_⟩
    · obtain ⟨pts, nudged, inside, row⟩ := eachRow y hy
      have length : pts.length = dim := (nudge_length nudged).trans (by simp [gridPoints])
      refine ⟨pts, nudged, length, fun x hx => ⟨inside _ (List.getElem_mem hx), ?_⟩⟩
      have inArray : y < 177 := by omega
      rw [matrixOf_get, decide_eq_true hy, decide_eq_true inArray, row, getLsbD_rowOf_pixels s fits length hx]
      rfl
    · rw [matrixOf_get]
      by_cases hy : y < dim
      · obtain ⟨pts, -, -, row⟩ := eachRow y hy
        have beyond : ¬ x < dim := by omega
        rw [row, rowOf_getLsbD, decide_eq_false beyond]
        simp
      · rw [decide_eq_false hy]
        rfl

end Sys2Proof.Machine

/-! PROOFS. 44_sampler.md R113–R119: what the sampler and matrix commands complete with (O45, O51), and S.QUAD as T.QQ and then S.GRID (O48). -/

namespace Sys2Proof.Machine

/-! ## Legal arguments (R109, R110, R118) -/

section
variable {s : State}

theorem dimOK_iff (d : ℕ) : dimOK d = true ↔ 21 ≤ d ∧ d ≤ 177 ∧ d % 4 = 1 := by
  simp [dimOK, and_assoc]

theorem imgOK_iff (s : State) :
    imgOK s = true ↔ 1 ≤ s.imgW.toNat ∧ s.imgW.toNat ≤ 2048 ∧ 1 ≤ s.imgH.toNat ∧ s.imgH.toNat ≤ 2048 := by
  simp [imgOK, and_assoc]

theorem checkModule_of_inside {x y : ℕ} (hx : x < s.bmDim.toNat) (hy : y < s.bmDim.toNat) : checkModule s x y = .ok () := by
  rcases checkModule_cases s x y with ⟨-, -, -, passes⟩ | ⟨absent, -⟩ | ⟨-, outside, -⟩
  · exact passes
  · rw [absent] at hx
    exact absurd hx (Nat.not_lt_zero x)
  · omega

/-- The points read back from PT are those stored there (R22). -/
theorem points_storePoints (canonical : s.mem.wf) {pts : List Point} {n : ℕ} (count : pts.length = n) :
    (storePoints s pts).points n = pts := by
  subst count
  refine List.ext_getElem (length_points ..) fun p _ hp => ?_
  rw [getElem_points, storePoints_pt canonical hp]

/-- A new matrix, with its dimension as the command's field gives it (R113). -/
theorem newMatrix_field (s : State) (m : BitMatrix) (dim : BitVec 12) :
    newMatrix s m dim.toNat = { s with bm := m, bmDim := dim.setWidth 32, fmt := 0#32, ver := 0#32 } := by
  rw [newMatrix, BitVec.ofNat_toNat]

end

/-! ## Completion (R113–R119) -/

/-- Settles O45: past their checks the commands are the nudge or the sampling, and one write. -/
theorem samplerCommands : Obligations.SamplerCommands := by
  intro s n dim positiveW fitsW positiveH fitsH
  have image : imgOK s = true := (imgOK_iff s).2 ⟨positiveW, fitsW, positiveH, fitsH⟩
  refine ⟨?nudge, ?grid, ?quad⟩
  case nudge =>
    intro pts canonical fits nudged
    have count : pts.length = n.toNat := (nudge_length nudged).trans (length_points ..)
    exact ⟨complete (storePoints s pts), (exec_sNudge fits image).trans (finish_bind_ok nudged _), rfl,
      points_storePoints canonical count, fun a outside => storePoints_read (count.symm ▸ outside)⟩
  case grid =>
    intro m low high mod valid sampled
    refine (exec_sGrid valid ((dimOK_iff _).2 ⟨low, high, mod⟩) image).trans ((finish_bind_ok sampled _).trans ?_)
    rw [newMatrix_field]
    rfl
  case quad =>
    intro m g low high mod built sampled
    refine (exec_sQuad ((dimOK_iff _).2 ⟨low, high, mod⟩) image).trans ((finish_bind_ok built _).trans
      ((finish_bind_ok sampled _).trans ?_))
    rw [newMatrix_field]
    rfl

/-- Settles O51: each command is one check and one write. -/
theorem matrixCommands : Obligations.MatrixCommands := by
  refine ⟨fun s dim low high mod => ?init, fun s x y fits hx hy => ⟨?set, ?get⟩⟩
  case init =>
    have legal : dimOK dim.toNat = true := (dimOK_iff _).2 ⟨low, high, mod⟩
    refine ⟨complete (newMatrix s ⟨0#31329⟩ dim.toNat), finish_bind_ok (checkDim_of_dimOK legal) _, ?_, BitMatrix.get_zero⟩
    rw [newMatrix_field]
    rfl
  case set =>
    refine ⟨complete { s with bm := s.bm.setOne x.toNat y.toNat }, finish_bind_ok (checkModule_of_inside hx hy) _, rfl,
      fun i j _ _ => ?_⟩
    have inX : x.toNat < 177 := by omega
    have inY : y.toNat < 177 := by omega
    rw [complete_bm, BitMatrix.get_setOne _ _ _ _ _ inX inY, Bool.or_comm, Bool.decide_and]
  case get => exact finish_bind_ok (checkModule_of_inside hx hy) _

/-! ## Commands that succeed (R54, R144) -/

section
variable {s t : State} {dim : BitVec 12}

/-- A step of a command that succeeds has answered, and the rest succeeds on its answer. -/
theorem finish_bind_succeeds_iff {α : Type} {r : Except CmdError α} {rest : α → Except CmdError State} :
    (finish s (r >>= rest) = .next t ∧ t.err = false) ↔ ∃ a, r = .ok a ∧ finish s (rest a) = .next t ∧ t.err = false := by
  cases r with
  | ok a => exact ⟨fun done => ⟨a, rfl, done⟩, fun ⟨_, same, done⟩ => by cases same; exact done⟩
  | error x =>
    constructor
    · rintro ⟨ends, noError⟩
      cases ends
      exact absurd noError Bool.noConfusion
    · rintro ⟨a, same, -⟩
      exact nomatch same

theorem finish_ok_succeeds_iff {v : State} (clear : v.err = false) :
    (finish s (.ok v) = .next t ∧ t.err = false) ↔ t = complete v := by
  rw [finish_ok, Host.Outcome.next.injEq]
  constructor
  · rintro ⟨rfl, -⟩
    rfl
  · rintro rfl
    exact ⟨rfl, clear⟩

theorem tQq_succeeds_iff (clear : s.err = false) :
    (exec .tQq s = .next t ∧ t.err = false) ↔ ∃ g, build s.q = .ok g ∧ t = complete (writeT s g) :=
  finish_bind_succeeds_iff.trans (exists_congr fun _ => and_congr_right fun _ => finish_ok_succeeds_iff clear)

theorem sGrid_succeeds_iff (clear : s.err = false) (valid : s.tv = true) (legal : dimOK dim.toNat = true) (image : imgOK s = true) :
    (exec (.sGrid dim) s = .next t ∧ t.err = false) ↔
      ∃ m, sample s s.t dim.toNat = .ok m ∧ t = complete (newMatrix s m dim.toNat) := by
  rw [exec_sGrid valid legal image]
  exact finish_bind_succeeds_iff.trans (exists_congr fun _ => and_congr_right fun _ => finish_ok_succeeds_iff clear)

theorem sQuad_succeeds_iff (clear : s.err = false) (legal : dimOK dim.toNat = true) (image : imgOK s = true) :
    (exec (.sQuad dim) s = .next t ∧ t.err = false) ↔
      ∃ g, build s.q = .ok g ∧ ∃ m, sample s g dim.toNat = .ok m ∧ t = complete (newMatrix (writeT s g) m dim.toNat) := by
  rw [exec_sQuad legal image]
  exact finish_bind_succeeds_iff.trans (exists_congr fun _ => and_congr_right fun _ =>
    finish_bind_succeeds_iff.trans (exists_congr fun _ => and_congr_right fun _ => finish_ok_succeeds_iff clear))

/-- Sampling through a given transform does not read T, BUSY or DONE. -/
theorem rowSampled_complete_writeT (s : State) (g h : Transform) (dim y : ℕ) (row : BitVec 177) :
    RowSampled (complete (writeT s h)) g dim y row ↔ RowSampled s g dim y row := Iff.rfl

theorem sample_complete_writeT (s : State) (g h : Transform) (dim : ℕ) (m : BitMatrix) :
    sample (complete (writeT s h)) g dim = .ok m ↔ sample s g dim = .ok m := by
  simp only [sample_ok_iff, rowSampled_complete_writeT]

end

/-- Settles O48: both sides are the build, then the sampling through what it built. -/
theorem quadIsBuildThenGrid : Obligations.QuadIsBuildThenGrid := by
  intro s t dim clear legal image
  rw [sQuad_succeeds_iff clear legal image]
  constructor
  · rintro ⟨g, built, m, sampled, rfl⟩
    obtain ⟨builds, noError⟩ := (tQq_succeeds_iff clear).2 ⟨g, built, rfl⟩
    refine ⟨complete (writeT s g), builds, noError, (sGrid_succeeds_iff noError rfl legal image).2 ⟨m, ?_, rfl⟩⟩
    exact (sample_complete_writeT ..).2 sampled
  · rintro ⟨u, builds, noError, samples⟩
    obtain ⟨g, built, rfl⟩ := (tQq_succeeds_iff clear).1 ⟨builds, noError⟩
    obtain ⟨m, sampled, rfl⟩ := (sGrid_succeeds_iff noError rfl legal image).1 samples
    exact ⟨g, built, m, (sample_complete_writeT ..).1 sampled, rfl⟩

end Sys2Proof.Machine

/-! PROOFS. 45_decoder.md R121–R132: fields and their bit order (O52), the resolution of format (O53) and version (O54), and the mask (O56). The lemmas before the statements give what `readField`, `readFmt` and `readVer` answer, case by case, under any configuration. -/

namespace Sys2Proof.Machine

/-! ## Fields (R121) -/

/-- A bit read later pushes those read before it up by one. -/
theorem readField_concat (m : BitMatrix) (positions : List (ℕ × ℕ)) (p : ℕ × ℕ) :
    readField m (positions ++ [p]) = readBit m (readField m positions) p := by
  rw [readField, readField, List.foldl_concat]

theorem readBit_getLsbD_zero (m : BitMatrix) (acc : Word) (p : ℕ × ℕ) : (readBit m acc p).getLsbD 0 = m.get p.1 p.2 := by
  cases h : m.get p.1 p.2 <;> simp [readBit, h]

theorem readBit_getLsbD_succ (m : BitMatrix) (acc : Word) (p : ℕ × ℕ) (k : ℕ) :
    (readBit m acc p).getLsbD (k + 1) = (decide (k + 1 < 32) && acc.getLsbD k) := by
  cases h : m.get p.1 p.2 <;> simp [readBit, h, -BitVec.getLsbD_eq_getElem]

/-- The last position read is bit 0 of its field, the first the highest (R121). -/
theorem readField_getLsbD (m : BitMatrix) (positions : List (ℕ × ℕ)) (fits : positions.length ≤ 32) (k : ℕ) :
    (readField m positions).getLsbD k =
      (decide (k < positions.length) &&
        m.get (positions.getD (positions.length - 1 - k) (0, 0)).1 (positions.getD (positions.length - 1 - k) (0, 0)).2) := by
  induction positions using List.reverseRecOn generalizing k with
  | nil => simp [readField]
  | append_singleton positions p ih =>
    rw [List.length_append, List.length_singleton] at fits ⊢
    rw [readField_concat]
    cases k with
    | zero =>
      rw [readBit_getLsbD_zero]
      simp
    | succ k =>
      rw [readBit_getLsbD_succ, ih (by omega), show positions.length + 1 - 1 - (k + 1) = positions.length - 1 - k by omega]
      by_cases read : k < positions.length
      · rw [List.getD_append _ _ _ _ (by omega)]
        simp [read, show k + 1 < 32 by omega]
      · simp [read]

/-! ## Commands on a matrix (R26) -/

theorem needMatrix_of_present {s : State} (present : s.bmDim ≠ 0#32) : needMatrix s = .ok s.bmDim.toNat := if_neg present

/-- Settles O52: D.NEW checks nothing, D.RDBIT its position, and a field's bits are `readField_getLsbD`. -/
theorem fieldReads : Obligations.FieldReads :=
  ⟨fun _ _ _ => ⟨rfl, fun hx hy => finish_bind_ok (checkModule_of_inside hx hy) _⟩, readField_getLsbD⟩

/-! ## The format (R123) -/

section
variable {c : Configuration} {s : State} {d : ℕ} {r : BitVec 5}

theorem readFmt_of_memo (memo : s.fv = true) : readFmt c s d = .ok s.fmt := if_pos memo

/-- Location A decides where it decodes. -/
theorem readFmt_of_A (clear : s.fv = false) (hA : c.formatDecode ((readField s.bm formatA).setWidth 15) = some r) :
    readFmt c s d = .ok (fmtWord r) := by
  simp [readFmt, clear, hA]

/-- Location B decides where A does not decode. -/
theorem readFmt_of_B (clear : s.fv = false) (hA : c.formatDecode ((readField s.bm formatA).setWidth 15) = none)
    (hB : c.formatDecode ((readField s.bm (formatB d)).setWidth 15) = some r) : readFmt c s d = .ok (fmtWord r) := by
  simp [readFmt, clear, hA, hB]

theorem readFmt_of_neither (clear : s.fv = false) (hA : c.formatDecode ((readField s.bm formatA).setWidth 15) = none)
    (hB : c.formatDecode ((readField s.bm (formatB d)).setWidth 15) = none) :
    readFmt c s d = .error ⟨.formatDecode, readField s.bm formatA, readField s.bm (formatB d)⟩ := by
  simp [readFmt, clear, hA, hB]

/-- A memo, or a location that decodes, resolves the format. -/
theorem readFmt_resolves (source : s.fv = true ∨ c.formatDecode ((readField s.bm formatA).setWidth 15) ≠ none ∨
    c.formatDecode ((readField s.bm (formatB d)).setWidth 15) ≠ none) : ∃ f, readFmt c s d = .ok f := by
  cases memo : s.fv with
  | true => exact ⟨_, readFmt_of_memo memo⟩
  | false =>
    cases hA : c.formatDecode ((readField s.bm formatA).setWidth 15) with
    | some r => exact ⟨_, readFmt_of_A memo hA⟩
    | none =>
      cases hB : c.formatDecode ((readField s.bm (formatB d)).setWidth 15) with
      | some r => exact ⟨_, readFmt_of_B memo hA hB⟩
      | none => simp [memo, hA, hB] at source

end

theorem fmtWord_eq_or (r : BitVec 5) : fmtWord r = 0x80000000#32 ||| r.setWidth 32 := by
  revert r
  decide

/-- D.FMT whose format resolves writes it to FMT. -/
theorem exec_dFmt_of_ok {s : State} {f : Word} (present : s.bmDim ≠ 0#32) (read : readFmt standard s s.bmDim.toNat = .ok f) :
    exec .dFmt s = .next { s with fmt := f, busy := false, done := true } :=
  (finish_bind_ok (needMatrix_of_present present) _).trans (finish_bind_ok read _)

/-- Settles O53: D.FMT is `readFmt`, whose cases are these. -/
theorem formatResolution : Obligations.FormatResolution := by
  intro s present bitsA bitsB
  refine ⟨fun memo => exec_dFmt_of_ok present (readFmt_of_memo memo), fun r clear hA => ?locationA,
    fun r clear hA hB => ?locationB, fun clear hA hB => ?neither⟩
  case locationA =>
    rw [← fmtWord_eq_or]
    exact exec_dFmt_of_ok present (readFmt_of_A clear hA)
  case locationB =>
    rw [← fmtWord_eq_or]
    exact exec_dFmt_of_ok present (readFmt_of_B clear hA hB)
  case neither =>
    exact (finish_bind_ok (needMatrix_of_present present) _).trans (finish_bind_error (readFmt_of_neither clear hA hB) _)

/-! ## The version (R125) -/

section
variable {c : Configuration} {s : State} {d v : ℕ} {bits : Word}

theorem blockVersion_eq_some (decodes : c.versionDecode (bits.setWidth 18) = some v) (same : dimension v = d) :
    blockVersion c d bits = some v := by
  simp [blockVersion, decodes, same]

/-- A block fails where it names no version or one of another dimension (R125). -/
theorem blockVersion_eq_none (fails : ∀ u, c.versionDecode (bits.setWidth 18) = some u → dimension u ≠ d) :
    blockVersion c d bits = none := by
  cases h : c.versionDecode (bits.setWidth 18) with
  | none => simp [blockVersion, h]
  | some u => simp [blockVersion, h, fails u h]

/-- The versions that a matrix carries are those from dimension 45 on (R137). -/
theorem provisionalVersion_le_six_iff : provisionalVersion d ≤ 6 ↔ d < 45 := by
  simp only [provisionalVersion]
  omega

theorem readVer_of_memo (memo : s.vv = true) : readVer c s d = .ok s.ver := if_pos memo

theorem readVer_of_small (clear : s.vv = false) (small : d < 45) : readVer c s d = .ok (verWord (provisionalVersion d)) := by
  simp [readVer, clear, provisionalVersion_le_six_iff, small]

/-- Block TR decides where it names a version of this dimension. -/
theorem readVer_of_TR (clear : s.vv = false) (large : 45 ≤ d) (hTR : blockVersion c d (readField s.bm (versionTR d)) = some v) :
    readVer c s d = .ok (verWord v) := by
  simp [readVer, clear, provisionalVersion_le_six_iff, large, hTR]

/-- Block BL decides where TR fails. -/
theorem readVer_of_BL (clear : s.vv = false) (large : 45 ≤ d) (hTR : blockVersion c d (readField s.bm (versionTR d)) = none)
    (hBL : blockVersion c d (readField s.bm (versionBL d)) = some v) : readVer c s d = .ok (verWord v) := by
  simp [readVer, clear, provisionalVersion_le_six_iff, large, hTR, hBL]

theorem readVer_of_neither (clear : s.vv = false) (large : 45 ≤ d)
    (hTR : blockVersion c d (readField s.bm (versionTR d)) = none) (hBL : blockVersion c d (readField s.bm (versionBL d)) = none) :
    readVer c s d = .error ⟨.versionDecode, readField s.bm (versionTR d), readField s.bm (versionBL d)⟩ := by
  simp [readVer, clear, provisionalVersion_le_six_iff, large, hTR, hBL]

end

theorem verWord_eq_or {v : ℕ} (hv : v ≤ 40) : verWord v = 0x80000000#32 ||| BitVec.ofNat 32 v := by
  have table : ∀ v < 41, verWord v = 0x80000000#32 ||| BitVec.ofNat 32 v := by decide
  exact table v (by omega)

theorem versionDecode_le {w : BitVec 18} {v : ℕ} (h : versionDecode w = some v) : v ≤ 40 := (standard_legal.versions w v h).2

/-- D.VER whose version resolves writes it to VER. -/
theorem exec_dVer_of_ok {s : State} {w : Word} (present : s.bmDim ≠ 0#32) (read : readVer standard s s.bmDim.toNat = .ok w) :
    exec .dVer s = .next { s with ver := w, busy := false, done := true } :=
  (finish_bind_ok (needMatrix_of_present present) _).trans (finish_bind_ok read _)

/-- Settles O54: D.VER is `readVer`, whose cases are these. -/
theorem versionResolution : Obligations.VersionResolution := by
  intro s present d bitsTR bitsBL
  refine ⟨fun memo => exec_dVer_of_ok present (readVer_of_memo memo), fun clear small => ?small,
    fun v clear large hTR same => ?blockTR, fun v clear large hTR hBL same => ?blockBL, fun clear large hTR hBL => ?neither⟩
  case small =>
    rw [← verWord_eq_or (by omega)]
    exact exec_dVer_of_ok present (readVer_of_small clear small)
  case blockTR =>
    rw [← verWord_eq_or (versionDecode_le hTR)]
    exact exec_dVer_of_ok present (readVer_of_TR clear large (blockVersion_eq_some hTR same))
  case blockBL =>
    rw [← verWord_eq_or (versionDecode_le hBL)]
    exact exec_dVer_of_ok present (readVer_of_BL clear large (blockVersion_eq_none hTR) (blockVersion_eq_some hBL same))
  case neither =>
    have fails := readVer_of_neither (c := standard) clear large (blockVersion_eq_none hTR) (blockVersion_eq_none hBL)
    exact (finish_bind_ok (needMatrix_of_present present) _).trans (finish_bind_error fails _)

/-! ## The mask (R126) -/

/-- The same mask twice flips nothing. -/
theorem unmask_unmask (c : Configuration) (bm : BitMatrix) (m : BitVec 3) (d : ℕ) : unmask c (unmask c bm m d) m d = bm := by
  refine BitMatrix.ext_get _ _ fun x y _ _ => ?_
  rw [unmask_get, unmask_get, Bool.xor_assoc, Bool.xor_self, Bool.xor_false]

/-- Settles O56: D.UNMASK is `unmask`, known module by module. -/
theorem unmaskInvolution : Obligations.UnmaskInvolution := by
  intro s m present _
  refine ⟨finish_bind_ok (needMatrix_of_present present) _, fun x y hx hy => ?_, unmask_unmask ..⟩
  rw [unmask_get, maskMatrix_get, decide_eq_true hx, decide_eq_true hy, Bool.and_true, Bool.and_true, Bool.bne_eq_xor]
  rfl

end Sys2Proof.Machine

/-! PROOFS. 45_decoder.md R127 and R133: the walk by index and the bytes it fills (O57), and D.CW (O59). Each pair of columns is as many positions as the others, and each row of a pair two, so that the place of a position in the walk gives its pair, its row and its side. -/

namespace Sys2Proof.Machine

/-! ## Lists of equal parts -/

/-- Element i of part k, where every part has n elements. -/
theorem getElem?_flatMap_of_length {α β : Type} {f : α → List β} {n : ℕ} (length : ∀ a, (f a).length = n) (l : List α)
    (k : ℕ) {i : ℕ} (hi : i < n) : (l.flatMap f)[n * k + i]? = l[k]?.bind fun a => (f a)[i]? := by
  induction l generalizing k with
  | nil => simp
  | cons a l ih =>
    rw [List.flatMap_cons]
    cases k with
    | zero =>
      rw [Nat.mul_zero, Nat.zero_add, List.getElem?_append_left (by rw [length]; exact hi)]
      simp
    | succ k =>
      have later : n * (k + 1) + i = n + (n * k + i) := by rw [Nat.mul_succ]; omega
      rw [later, List.getElem?_append_right (by rw [length]; exact Nat.le_add_right ..), length, Nat.add_sub_cancel_left, ih,
        List.getElem?_cons_succ]

/-! ## The order of the walk (R127) -/

/-- The right column of a pair, the pairs numbered from the right: column 6 is skipped (R127). -/
def rightColumn (d pair : ℕ) : ℕ := if 6 < d - 1 - 2 * pair then d - 1 - 2 * pair else d - 2 - 2 * pair

theorem walkColumns_eq_map (k n : ℕ) :
    walkColumns (k + n + 3) (6 + 2 * k) = (List.range (k + 3)).map (rightColumn (7 + 2 * k)) := by
  induction k with
  | zero => simp [walkColumns, walkColumns_zero, List.range_succ, rightColumn]
  | succ k ih =>
    have first : walkColumns (k + 1 + n + 3) (6 + 2 * (k + 1)) = (8 + 2 * k) :: walkColumns (k + n + 3) (6 + 2 * k) := by
      rw [show k + 1 + n + 3 = (k + n + 3) + 1 by omega, walkColumns]
      simp [show 6 + 2 * (k + 1) = 8 + 2 * k by omega, show ¬ 8 + 2 * k = 6 by omega, show 8 + 2 * k - 2 = 6 + 2 * k by omega]
    have outer : rightColumn (7 + 2 * (k + 1)) 0 = 8 + 2 * k := by
      simp only [rightColumn]
      split_ifs <;> omega
    have inner (pair : ℕ) : rightColumn (7 + 2 * (k + 1)) (pair + 1) = rightColumn (7 + 2 * k) pair := by
      simp only [rightColumn]
      split_ifs <;> omega
    rw [show k + 1 + 3 = (k + 3) + 1 by omega, List.range_succ_eq_map, List.map_cons, List.map_map, outer, first, ih]
    exact congrArg _ (List.map_congr_left fun pair _ => (inner pair).symm)

theorem walkColumns_dimension {v pair : ℕ} (inside : pair < (dimension v - 1) / 2) :
    (walkColumns (dimension v) (dimension v - 1))[pair]? = some (rightColumn (dimension v) pair) := by
  have columns := walkColumns_eq_map (2 * v + 5) (2 * v + 9)
  rw [show 2 * v + 5 + (2 * v + 9) + 3 = dimension v by simp only [dimension]; omega,
    show 6 + 2 * (2 * v + 5) = dimension v - 1 by simp only [dimension]; omega,
    show 7 + 2 * (2 * v + 5) = dimension v by simp only [dimension]; omega] at columns
  rw [columns, List.getElem?_map, List.getElem?_range (by simp only [dimension] at inside; omega), Option.map_some]

theorem pairPositions_length (d : ℕ) (up : Bool) (j : ℕ) : (pairPositions d up j).length = 2 * d := by
  rw [(pairPositions_perm d up j).length_eq, List.length_product, List.length_range]
  rfl

/-- In a pair: row by row, the right column before the left (R127). -/
theorem pairPositions_getElem? {d row side : ℕ} (up : Bool) (j : ℕ) (hrow : row < d) (hside : side < 2) :
    (pairPositions d up j)[2 * row + side]? = some (j - side, if up then d - 1 - row else row) := by
  rw [pairPositions, getElem?_flatMap_of_length (n := 2) (fun _ => rfl) _ _ hside, List.getElem?_range hrow]
  match side, hside with
  | 0, _ | 1, _ => rfl

/-- The position at each place of the walk (R127). -/
theorem walkPositions_getElem? {v pair row side : ℕ} (hpair : pair < (dimension v - 1) / 2) (hrow : row < dimension v)
    (hside : side < 2) :
    (walkPositions (dimension v))[2 * dimension v * pair + 2 * row + side]? =
      some (rightColumn (dimension v) pair - side, if pair % 2 = 0 then dimension v - 1 - row else row) := by
  rw [walkPositions, Nat.add_assoc,
    getElem?_flatMap_of_length (n := 2 * dimension v) (fun _ => pairPositions_length ..) _ _ (by omega),
    List.getElem?_zipIdx, walkColumns_dimension hpair]
  simpa using pairPositions_getElem? (pair % 2 == 0) (rightColumn (dimension v) pair) hrow hside

/-! ## What the walk visits (R127) -/

theorem walkPositions_nodup (v : ℕ) : (walkPositions (dimension v)).Nodup :=
  (walkPositions_perm v).nodup_iff.2 ((List.nodup_range.filter _).product List.nodup_range)

theorem mem_walkPositions_iff (v x y : ℕ) :
    (x, y) ∈ walkPositions (dimension v) ↔ x < dimension v ∧ y < dimension v ∧ x ≠ 6 := by
  rw [(walkPositions_perm v).mem_iff, List.mem_product, List.mem_filter, List.mem_range, List.mem_range, bne_iff_ne]
  tauto

theorem walkPositions_length (v : ℕ) : (walkPositions (dimension v)).length = dimension v * (dimension v - 1) := by
  have columns : ((List.range (dimension v)).filter fun x => x != 6).length = dimension v - 1 := by
    have six : (List.range (dimension v)).count 6 = 1 :=
      List.count_eq_one_of_mem List.nodup_range (List.mem_range.2 (by simp only [dimension]; omega))
    have parts := List.length_eq_countP_add_countP (fun x => x == 6) (l := List.range (dimension v))
    rw [List.length_range] at parts
    rw [← List.countP_eq_length_filter]
    simp only [List.count, bne, Bool.not_eq_true, Bool.decide_eq_false] at six parts ⊢
    omega
  rw [(walkPositions_perm v).length_eq, List.length_product, columns, List.length_range, Nat.mul_comm]

/-! ## Bytes of bits (R127) -/

/-- Bit b of byte n, most significant bit first. -/
theorem packBytes_getLsbD (bits : List Bool) (n b : ℕ) (hn : n < bits.length / 8) (hb : b < 8) :
    some (((packBytes bits).getD n 0#8).getLsbD b) = bits[8 * n + 7 - b]? := by
  induction bits using packBytes.induct generalizing n with
  | case1 b7 b6 b5 b4 b3 b2 b1 b0 rest ih =>
    cases n with
    | zero =>
      simp only [packBytes, List.getD_cons_zero, BitVec.getLsbD_append, BitVec.getLsbD_ofBool]
      match b, hb with
      | 0, _ | 1, _ | 2, _ | 3, _ | 4, _ | 5, _ | 6, _ | 7, _ => simp
    | succ n =>
      rw [show 8 * (n + 1) + 7 - b = 8 * n + 7 - b + 8 by omega]
      simp only [List.length_cons] at hn
      exact ih n (by omega)
  | case2 bits partialByte =>
    have noByte := packBytes_length bits
    rw [packBytes] at noByte
    · exact absurd hn (by simp [← noByte])
    · exact partialByte

/-- The positions that the walk reads bits from, in its order: those outside the function pattern (R127). -/
def dataPositions (c : Configuration) (v d : ℕ) : List (ℕ × ℕ) := (walkPositions d).filter fun p => !c.functionModule v p.1 p.2

theorem walk_eq_packBytes (c : Configuration) (bm : BitMatrix) (v d : ℕ) :
    walk c bm v d = packBytes ((dataPositions c v d).map fun p => bm.get p.1 p.2) := rfl

theorem walk_length_eq (c : Configuration) (bm : BitMatrix) (v d : ℕ) :
    (walk c bm v d).length = (dataPositions c v d).length / 8 := by
  rw [walk_eq_packBytes, packBytes_length, List.length_map]

/-- Bit b of codeword n is the module at place 8n + 7 − b (R127). -/
theorem walk_getLsbD (c : Configuration) (bm : BitMatrix) (v d n b : ℕ) (hn : n < (dataPositions c v d).length / 8) (hb : b < 8) :
    ((walk c bm v d).getD n 0#8).getLsbD b =
      bm.get ((dataPositions c v d).getD (8 * n + 7 - b) (0, 0)).1 ((dataPositions c v d).getD (8 * n + 7 - b) (0, 0)).2 := by
  have packed := packBytes_getLsbD ((dataPositions c v d).map fun p => bm.get p.1 p.2) n b (by rwa [List.length_map]) hb
  have place : 8 * n + 7 - b < (dataPositions c v d).length := by omega
  rw [List.getElem?_map, List.getElem?_eq_getElem place, Option.map_some, Option.some.injEq] at packed
  rw [walk_eq_packBytes, packed, List.getD_eq_getElem _ _ place]

/-- Settles O57: the walk as a permutation of its modules, its places by pair, row and side, and its bits by byte. -/
theorem walkCoversTheMatrix : Obligations.WalkCoversTheMatrix := by
  refine ⟨fun v _ _ => ⟨walkPositions_nodup v, mem_walkPositions_iff v, walkPositions_length v,
    fun pair row side hpair hrow hside => ?_⟩, fun c bm v d => ⟨walk_length_eq c bm v d, walk_getLsbD c bm v d⟩⟩
  rw [List.getD_eq_getElem?_getD, walkPositions_getElem? hpair hrow hside, Option.getD_some, rightColumn]

/-! ## D.CW (R133) -/

/-- What D.CW leaves where its format and version resolve under the default tables, before its completion. -/
def State.withCodewords (s : State) (f : Word) (v : ℕ) : State :=
  let bm := unmask standard s.bm (f.extractLsb' 0 3) (dimension v)
  { s with
    fmt := f, ver := verWord v, bm := bm, mem := s.mem.writeBytes (cwAddr 0) (walk standard bm v (dimension v))
    cwCount := BitVec.ofNat 32 (totalCodewords v) }

/-- The default tables pass the count check (R142). -/
theorem exec_dCw_of_resolved {s : State} {f : Word} {v : ℕ} (h1 : 1 ≤ v) (hv : v ≤ 40) (hd : s.bmDim.toNat = dimension v)
    (hf : readFmt standard s (dimension v) = .ok f) (hw : readVer standard s (dimension v) = .ok (verWord v)) :
    exec .dCw s = .next (complete (s.withCodewords f v)) := by
  have count := walk_standard_length v (unmask standard s.bm (f.extractLsb' 0 3) (dimension v)) h1 hv
  refine (runDCw_resolved standard s f v hv hd hf hw).trans ((finish_failIf (bne_eq_false_iff_eq.2 count) _ _).trans ?_)
  rw [count]
  rfl

/-- Every byte of storage after the codewords are written: byte n at CW[n], the others as before. -/
theorem withCodewords_read {s : State} (canonical : s.mem.wf) (f : Word) {v : ℕ} (h1 : 1 ≤ v) (hv : v ≤ 40) (a : ℕ) :
    (s.withCodewords f v).mem.read a =
      if cwAddr 0 ≤ a ∧ a < cwAddr (totalCodewords v) then
        (walk standard (unmask standard s.bm (f.extractLsb' 0 3) (dimension v)) v (dimension v)).getD (a - cwAddr 0) 0#8
      else s.mem.read a := by
  rw [State.withCodewords, Memory.read_writeBytes _ canonical, walk_standard_length v _ h1 hv]
  rfl

/-- Settles O59: D.CW past its reads is `withCodewords`; where a read fails its error is the command's. -/
theorem codewordExtraction : Obligations.CodewordExtraction := by
  refine ⟨fun s f v h1 hv hd canonical hf hw => ?completes, fun s present => ⟨?format, ?version⟩⟩
  case completes =>
    have read := withCodewords_read canonical f h1 hv
    refine ⟨complete (s.withCodewords f v), exec_dCw_of_resolved h1 hv hd hf hw, rfl, fun n hn => ?_, fun a outside => ?_⟩
    · rw [State.cw, complete_mem, read, if_pos (by simp only [cwAddr]; omega), cwAddr, cwAddr,
        Nat.add_zero, Nat.add_sub_cancel_left]
    · rw [complete_mem, read, if_neg outside]
  case format =>
    intro clear hA hB
    exact (finish_bind_ok (needMatrix_of_present present) _).trans (finish_bind_error (readFmt_of_neither clear hA hB) _)
  case version =>
    intro source clear large hTR hBL
    obtain ⟨f, hf⟩ := readFmt_resolves (c := standard) source
    have fails := readVer_of_neither (c := standard) clear large (blockVersion_eq_none hTR) (blockVersion_eq_none hBL)
    exact (finish_bind_ok (needMatrix_of_present present) _).trans ((finish_bind_ok hf _).trans (finish_bind_error fails _))

end Sys2Proof.Machine

/-! PROOFS. 46_decoder_tables.md R134 and R136: format and version decoding correct three errors (O55). Any two codes of a table differ in seven bits or more, so that at most one is within distance 3 of a word; the search answers one that is, whenever there is one. -/

namespace Sys2Proof.Machine

/-! ## Distance -/

/-- `popcount` of a difference is the Hamming distance of the bits. -/
theorem popcount_xor_eq_hammingDist {w : ℕ} (x y : BitVec w) :
    popcount (x ^^^ y) = hammingDist (fun k : Fin w => x.getLsbD k) (fun k : Fin w => y.getLsbD k) := by
  have counts : popcount (x ^^^ y) = Nat.count (fun k => x.getLsbD k ≠ y.getLsbD k) w := by
    refine List.countP_congr fun k _ => ?_
    rw [BitVec.getLsbD_xor, Bool.xor_iff_ne, decide_eq_true_iff]
  rw [counts, Nat.count_eq_card_filter_range, hammingDist, Finset.card_filter, Finset.card_filter, Finset.sum_range]

theorem popcount_xor_comm {w : ℕ} (x y : BitVec w) : popcount (x ^^^ y) = popcount (y ^^^ x) := by rw [BitVec.xor_comm]

theorem popcount_xor_triangle {w : ℕ} (x y z : BitVec w) : popcount (x ^^^ z) ≤ popcount (x ^^^ y) + popcount (y ^^^ z) := by
  simp only [popcount_xor_eq_hammingDist]
  exact hammingDist_triangle ..

theorem popcount_xor_self {w : ℕ} (x : BitVec w) : popcount (x ^^^ x) = 0 := by
  rw [popcount_xor_eq_hammingDist, hammingDist_self]

/-! ## The search (R134, R136) -/

section
variable {w : ℕ} {α : Type} {x : BitVec w} {table : List (BitVec w × α)} {best : Option (ℕ × α)}

/-- The nearest entry so far, once the search has passed `entry`: the first on a tie. -/
def nearer (entry : ℕ × α) : Option (ℕ × α) → ℕ × α
  | none => entry
  | some old => if entry.1 < old.1 then entry else old

theorem nearer_eq (entry : ℕ × α) (best : Option (ℕ × α)) : nearer entry best = entry ∨ best = some (nearer entry best) := by
  match best with
  | none => exact .inl rfl
  | some old =>
    rw [nearer]
    split
    · exact .inl rfl
    · exact .inr rfl

theorem nearer_le_entry (entry : ℕ × α) (best : Option (ℕ × α)) : (nearer entry best).1 ≤ entry.1 := by
  match best with
  | none => exact le_rfl
  | some old =>
    rw [nearer]
    split <;> omega

theorem nearer_le_best (entry old : ℕ × α) : (nearer entry (some old)).1 ≤ old.1 := by
  rw [nearer]
  split <;> omega

theorem nearestCode_cons_self (a : α) : nearestCode x ((x, a) :: table) best = some a := by
  rw [nearestCode, if_pos rfl]

theorem nearestCode_cons_of_ne {code : BitVec w} (ne : code ≠ x) (a : α) :
    nearestCode x ((code, a) :: table) best = nearestCode x table (some (nearer (popcount (x ^^^ code), a) best)) := by
  match best with
  | none => rw [nearestCode, if_neg ne, nearer]
  | some old => rw [nearestCode, if_neg ne, nearer, apply_ite some]

/-- What the search chooses among, with the distance from x: the nearest entry so far and those still to come. -/
def Candidate (x : BitVec w) (table : List (BitVec w × α)) (best : Option (ℕ × α)) (p : ℕ × α) : Prop :=
  best = some p ∨ ∃ c ∈ table, p = (popcount (x ^^^ c.1), c.2)

/-- What the search answers is a candidate within distance 3. -/
theorem candidate_of_nearestCode {a : α} (found : nearestCode x table best = some a) :
    ∃ dist ≤ 3, Candidate x table best (dist, a) := by
  induction table generalizing best with
  | nil =>
    match best with
    | none => cases found
    | some (dist, b) =>
      obtain ⟨near, rfl⟩ : dist ≤ 3 ∧ b = a := by simpa [nearestCode] using found
      exact ⟨dist, near, .inl rfl⟩
  | cons c rest ih =>
    obtain ⟨code, b⟩ := c
    by_cases same : code = x
    · subst same
      cases (nearestCode_cons_self b).symm.trans found
      exact ⟨0, by omega, .inr ⟨_, List.mem_cons_self, by rw [popcount_xor_self]⟩⟩
    · rw [nearestCode_cons_of_ne same] at found
      obtain ⟨dist, near, kept | ⟨c, hc, later⟩⟩ := ih found
      · obtain new | old := nearer_eq (popcount (x ^^^ code), b) best
        · exact ⟨dist, near, .inr ⟨_, List.mem_cons_self, (Option.some.inj kept).symm.trans new⟩⟩
        · exact ⟨dist, near, .inl (old.trans kept)⟩
      · exact ⟨dist, near, .inr ⟨c, List.mem_cons_of_mem _ hc, later⟩⟩

/-- Where the search fails no candidate is within distance 3. -/
theorem far_of_nearestCode_eq_none (fails : nearestCode x table best = none) {p : ℕ × α} (candidate : Candidate x table best p) :
    3 < p.1 := by
  induction table generalizing best p with
  | nil =>
    obtain rfl | ⟨_, none_left, _⟩ := candidate
    · simpa [nearestCode] using fails
    · cases none_left
  | cons c rest ih =>
    obtain ⟨code, b⟩ := c
    by_cases same : code = x
    · subst same
      cases (nearestCode_cons_self b).symm.trans fails
    · rw [nearestCode_cons_of_ne same] at fails
      have far := ih fails (.inl rfl)
      obtain rfl | ⟨c, hc, rfl⟩ := candidate
      · exact far.trans_le (nearer_le_best ..)
      · obtain rfl | later := List.mem_cons.1 hc
        · exact far.trans_le (nearer_le_entry ..)
        · exact ih fails (.inr ⟨c, later, rfl⟩)

end

/-! ## Tables of codes -/

/-- The table whose entry k is code k with its datum. -/
def codeTable {w : ℕ} {α : Type} (codes : List (BitVec w)) (datum : ℕ → α) : List (BitVec w × α) :=
  codes.zipIdx.map fun c => (c.1, datum c.2)

theorem fmtTable_eq_codeTable : fmtTable = codeTable fmtCodes (BitVec.ofNat 5) := rfl

theorem verTable_eq_codeTable : verTable = codeTable verCodes (· + 7) := rfl

/-- The candidates of a whole search are the codes by their place in the table. -/
theorem candidate_codeTable_iff {w : ℕ} {α : Type} {x : BitVec w} {codes : List (BitVec w)} {datum : ℕ → α} {dist : ℕ} {a : α} :
    Candidate x (codeTable codes datum) none (dist, a) ↔
      ∃ k < codes.length, popcount (x ^^^ codes.getD k 0#w) = dist ∧ datum k = a := by
  constructor
  · rintro (none_yet | ⟨_, member, entry⟩)
    · cases none_yet
    · obtain ⟨⟨code, k⟩, place, rfl⟩ := List.mem_map.1 member
      obtain ⟨hk, stored : codes[k] = code⟩ := List.getElem?_eq_some_iff.1 (List.mem_zipIdx_iff_getElem?.1 place)
      obtain ⟨rfl, rfl⟩ := Prod.mk.inj entry
      exact ⟨k, hk, by rw [List.getD_eq_getElem _ _ hk, stored], rfl⟩
  · rintro ⟨k, hk, rfl, rfl⟩
    have place : (codes[k], k) ∈ codes.zipIdx := List.mem_zipIdx_iff_getElem?.2 (List.getElem?_eq_getElem hk)
    exact .inr ⟨_, List.mem_map_of_mem place, by rw [List.getD_eq_getElem _ _ hk]⟩

/-- Any two codes differ in seven bits or more. -/
def Separated {w : ℕ} (codes : List (BitVec w)) : Prop := codes.Pairwise fun c e => 6 < popcount (c ^^^ e)

/-- The spheres of radius 3 around separated codes do not meet. -/
theorem Separated.near_unique {w : ℕ} {codes : List (BitVec w)} (separated : Separated codes) {x : BitVec w} {i j : ℕ}
    (hi : i < codes.length) (hj : j < codes.length) (near_i : popcount (x ^^^ codes.getD i 0#w) ≤ 3)
    (near_j : popcount (x ^^^ codes.getD j 0#w) ≤ 3) : i = j := by
  wlog hij : i ≤ j generalizing i j
  · exact (this hj hi near_j near_i (by omega)).symm
  by_contra ne
  have apart := List.pairwise_iff_getElem.1 separated i j hi hj (by omega)
  rw [List.getD_eq_getElem _ _ hi, popcount_xor_comm] at near_i
  rw [List.getD_eq_getElem _ _ hj] at near_j
  have := popcount_xor_triangle codes[i] x codes[j]
  omega

/-- The search in a table of separated codes answers the datum of the code within distance 3, if there is one. -/
theorem nearestCode_codeTable_eq_some_iff {w : ℕ} {α : Type} {codes : List (BitVec w)} (separated : Separated codes) (datum : ℕ → α)
    (x : BitVec w) (a : α) : nearestCode x (codeTable codes datum) none = some a ↔
      ∃ k < codes.length, popcount (x ^^^ codes.getD k 0#w) ≤ 3 ∧ datum k = a := by
  have sound {b : α} (found : nearestCode x (codeTable codes datum) none = some b) :
      ∃ k < codes.length, popcount (x ^^^ codes.getD k 0#w) ≤ 3 ∧ datum k = b := by
    obtain ⟨dist, near, candidate⟩ := candidate_of_nearestCode found
    obtain ⟨k, hk, rfl, value⟩ := candidate_codeTable_iff.1 candidate
    exact ⟨k, hk, near, value⟩
  refine ⟨sound, fun ⟨k, hk, near, value⟩ => ?_⟩
  cases answer : nearestCode x (codeTable codes datum) none with
  | none =>
    have far := far_of_nearestCode_eq_none answer (candidate_codeTable_iff.2 ⟨k, hk, rfl, rfl⟩)
    exact absurd near (by omega)
  | some b =>
    obtain ⟨j, hj, near_j, rfl⟩ := sound answer
    rw [← value, separated.near_unique hj hk near_j near]

/-! ## FORMAT_DECODE (R134) -/

theorem fmtCodes_separated : Separated fmtCodes := by
  unfold Separated
  decide +kernel

/-- One lookup: the datum of the stored code within distance 3. -/
theorem nearestCode_fmtTable_eq_some_iff (w : BitVec 15) (r : BitVec 5) :
    nearestCode w fmtTable none = some r ↔ popcount (w ^^^ fmtCodes.getD r.toNat 0#15) ≤ 3 := by
  rw [fmtTable_eq_codeTable, nearestCode_codeTable_eq_some_iff fmtCodes_separated]
  constructor
  · rintro ⟨k, hk, near, rfl⟩
    rwa [BitVec.toNat_ofNat, Nat.mod_eq_of_lt (show k < 2 ^ 5 from hk)]
  · exact fun near => ⟨r.toNat, r.isLt, near, by rw [BitVec.ofNat_toNat, BitVec.setWidth_eq]⟩

theorem formatDecode_eq_or (w : BitVec 15) :
    formatDecode w = (nearestCode w fmtTable none).or (nearestCode (w ^^^ 0x5412#15) fmtTable none) := by
  rw [formatDecode]
  cases nearestCode w fmtTable none <;> rfl

/-! ## VERSION_DECODE (R136) -/

theorem verCodes_separated : Separated verCodes := by
  unfold Separated
  decide +kernel

theorem versionDecode_eq_some_iff (w : BitVec 18) (v : ℕ) :
    versionDecode w = some v ↔ 7 ≤ v ∧ v ≤ 40 ∧ popcount (w ^^^ verCodes.getD (v - 7) 0#18) ≤ 3 := by
  rw [versionDecode, verTable_eq_codeTable, nearestCode_codeTable_eq_some_iff verCodes_separated]
  have length : verCodes.length = 34 := rfl
  constructor
  · rintro ⟨k, hk, near, rfl⟩
    exact ⟨by omega, by omega, by rwa [Nat.add_sub_cancel]⟩
  · rintro ⟨low, high, near⟩
    exact ⟨v - 7, by omega, near, by omega⟩

/-- Settles O55: both decoders are lookups in tables of separated codes. -/
theorem codesCorrectThreeErrors : Obligations.CodesCorrectThreeErrors := by
  refine ⟨fun r w near => ?first, fun r w far near => ?second, fun r w found => ?format_sound,
    fun k w hk near => ?version, fun v w found => (versionDecode_eq_some_iff w v).1 found⟩
  case first => rw [formatDecode_eq_or, (nearestCode_fmtTable_eq_some_iff w r).2 near, Option.some_or]
  case second =>
    have first_fails : nearestCode w fmtTable none = none :=
      Option.eq_none_iff_forall_ne_some.2 fun k found =>
        absurd ((nearestCode_fmtTable_eq_some_iff w k).1 found) (Nat.not_le.2 (far k))
    rw [formatDecode_eq_or, first_fails, Option.none_or]
    exact (nearestCode_fmtTable_eq_some_iff _ r).2 near
  case format_sound =>
    rw [formatDecode_eq_or, Option.or_eq_some_iff] at found
    exact found.imp (nearestCode_fmtTable_eq_some_iff w r).1 fun ⟨_, second⟩ => (nearestCode_fmtTable_eq_some_iff _ r).1 second
  case version => exact (versionDecode_eq_some_iff w (k + 7)).2 ⟨by omega, by omega, by rwa [Nat.add_sub_cancel]⟩

end Sys2Proof.Machine

/-! PROOFS. 70_reset_and_hazards.md R158, R159: the soft reset (O11) and the `rst` input (O12). Both are `resetBlock`, whose stated values are `AtReset` and whose free values are `Drawn`. -/

namespace Sys2Proof.Machine

/-! ## What a host reads of a block at the values of R37 -/

section
variable {s : State}

theorem State.AtReset.valid_eq_zero (h : s.AtReset) : s.valid = 0#32 := by
  simp [State.valid, h.elements, h.polynomials, h.transform, h.matrix]

theorem State.AtReset.ctrl_eq_zero (h : s.AtReset) : s.ctrl = 0#32 := by
  obtain ⟨doneIe, errIe⟩ := h.control
  simp [State.ctrl, doneIe, errIe]

theorem State.AtReset.status_eq_zero (h : s.AtReset) : s.status = 0#32 := by
  obtain ⟨busy, done, err, drop, errCode⟩ := h.status
  simp [State.status, State.irq, busy, done, err, drop, errCode]

end

/-- A later reset takes every value that R37 states from the state at power-on. -/
theorem reset_atReset : State.reset.AtReset := { resetBlock_atReset State.reset with }

/-! ## The free values of a reset (R37) -/

/-- Storage in which nothing is listed shows the free bytes of its epoch. -/
theorem Memory.read_of_no_cells (epoch a : Nat) : (⟨epoch + 1, []⟩ : Memory).read a = Config.resetByte (epoch + 1) a := by
  simp [Memory.read, lookupCell, Memory.unlisted]

theorem resetBlock_drawn (s : State) : (resetBlock s).Drawn s.draws where
  elements := fun k => Vector.getElem_ofFn k.isLt
  polynomials := fun k => Vector.getElem_ofFn k.isLt
  transform := fun k => by
    match k with
    | 0 | 1 | 2 | 3 | 4 | 5 | 6 | 7 | 8 => rfl
  quadrilaterals := fun k => Vector.getElem_ofFn k.isLt
  storage := Memory.read_of_no_cells s.draws
  modules := rfl
  latch := rfl
  counted := rfl

/-- Settles O11: a CTRL write with SOFT_RESET is `resetBlock`. -/
theorem softReset : Obligations.SoftReset := by
  refine ⟨reset_atReset, reset_atReset.valid_eq_zero, reset_atReset.status_eq_zero, fun s v out soft => ?_⟩
  have table := resetBlock_atReset s
  rw [hostWrite_ctrl out, writeCtrl_reset soft]
  exact ⟨table, table.valid_eq_zero, table.status_eq_zero, table.ctrl_eq_zero, resetBlock_drawn s, rfl⟩

/-! ## Where the map has ID and CMD (R43) -/

theorem eq_of_target_id_cmd (w : Nat) : (target (4 * w) = .id → w = 0) ∧ (target (4 * w) = .cmd → w = 6) := by
  have registers : ∀ k < 0x10, (registerAt k = .id → k = 0) ∧ (registerAt k = .cmd → k = 6) := by decide
  apply target_elim (P := fun tgt => (tgt = .id → w = 0) ∧ (tgt = .cmd → w = 6))
  case register => exact registers w
  all_goals intros; exact ⟨nofun, nofun⟩

theorem target_id_iff (a : BitVec 19) : target (byteAddr a) = .id ↔ a = 0#19 := by
  constructor
  · exact fun h => BitVec.eq_of_toNat_eq ((eq_of_target_id_cmd a.toNat).1 h)
  · rintro rfl
    decide

theorem target_cmd_iff (a : BitVec 19) : target (byteAddr a) = .cmd ↔ a = 6#19 := by
  constructor
  · exact fun h => BitVec.eq_of_toNat_eq ((eq_of_target_id_cmd a.toNat).2 h)
  · rintro rfl
    decide

/-! ## The `rst` input (R158) -/

/-- A level that resets the block leaves the table of R37 with fresh free values, and is the level from then on. -/
theorem driveRst_of_reset {level : Bool} {s : State} (h : (level || s.rst) = true) :
    (driveRst level s).rst = level ∧ (driveRst level s).AtReset ∧ (driveRst level s).Drawn s.draws := by
  rw [driveRst, if_pos h]
  exact ⟨rfl, { resetBlock_atReset s with }, { resetBlock_drawn s with }⟩

/-- A low level on a block out of reset changes nothing (log entry 10). -/
theorem driveRst_of_low {level : Bool} {s : State} (h : (level || s.rst) = false) : driveRst level s = s := by
  rw [driveRst, if_neg (by simp [h])]

/-- Settles O12: a held block answers no access but the read of ID and takes no step, and the level is `driveRst`. -/
theorem resetInput : Obligations.ResetInput := by
  refine ⟨fun s a v held => ?write, fun s a held => ?read, fun s held => blockStep_of_not_busy (.inr held),
    fun s => driveRst_of_reset rfl, fun s held => driveRst_of_reset held, fun s out => driveRst_of_low out⟩
  case write => simp [hostWrite, held]
  case read => simp [hostRead, held, target_id_iff, Config.idValue]

end Sys2Proof.Machine

/-! PROOFS. 60_exceptions.md R144–R146: the offer of a command word (O7), how a command ends (O21), and a latched error at every step (O22). -/

namespace Sys2Proof.Machine

/-! ## The offer of a command word (R54, R146) -/

theorem offerCommand_of_err {s : State} (latched : s.err = true) (w : Word) : offerCommand w s = { s with drop := true } :=
  if_pos latched

/-- ERR is read by the offer of a command word alone; what CTRL makes of ERR is all it does with it (R146). -/
theorem writeTarget_ignores_err (s : State) (v : Word) (b c : Bool) {tgt : Target} (other : tgt ≠ .cmd) :
    { writeTarget v { s with err := b } tgt with err := c } = { writeTarget v s tgt with err := c } := by
  cases tgt with
  | cmd => exact absurd rfl other
  | ctrl =>
    simp only [writeTarget]
    cases soft : v.getLsbD 31 with
    | true => rw [writeCtrl_reset soft, writeCtrl_reset soft]; rfl
    | false => rw [writeCtrl_eq_ctrlWritten soft, writeCtrl_eq_ctrlWritten soft]; rfl
  | _ => rfl

/-- Settles O7: CMD is the one word whose write is an offer. -/
theorem commandOffer : Obligations.CommandOffer := by
  refine ⟨fun s w idle noError => hostWrite_cmd idle noError w, fun s w idle latched => ?dropped,
    fun s a v b c idle other => ?unaffected⟩
  case dropped =>
    rw [hostWrite_of_idle idle, (target_cmd_iff _).2 rfl]
    exact offerCommand_of_err latched w
  case unaffected =>
    have idle' : ({ s with err := b } : State).idle := idle
    rw [hostWrite_of_idle idle, hostWrite_of_idle idle']
    exact writeTarget_ignores_err s v b c fun h => other ((target_cmd_iff a).1 h)

/-! ## The end of a command (R54, R144) -/

/-- Both states show the same error record and ERR (R32, R33). -/
abbrev SameRecord (s t : State) : Prop :=
  t.err = s.err ∧ t.errCode = s.errCode ∧ t.errCmd = s.errCmd ∧ t.errInfo0 = s.errInfo0 ∧ t.errInfo1 = s.errInfo1

/-- No command writes the error record before it ends. -/
theorem Writes.keeps_record {s u : State} {i : Instr} (h : Writes s i u) : SameRecord s u := by
  cases h <;> exact ⟨rfl, rfl, rfl, rfl, rfl⟩

/-- Settles O21: a command's checks end in its writes, which leave the record alone, or in the record of the one that fails. -/
theorem commandsCompleteOrFail : Obligations.CommandsCompleteOrFail := by
  intro i s
  obtain ⟨r, run, answers⟩ := exec_answers i s
  rw [run]
  cases r with
  | ok u =>
    have writes : Writes s i u := answers
    exact ⟨complete u, rfl, rfl, rfl, .inl writes.keeps_record⟩
  | error x => exact ⟨raise x s, rfl, rfl, rfl, .inr ⟨_, _, _, latchable_code answers, rfl⟩⟩

/-! ## A step that does not reset the block (R50, R54) -/

/-- The block's turn: it is disabled, or executes the command that its step runs, or raises IllegalCommand (R54, R59, R156). -/
theorem blockTurn_cases {s t : State} {rest : List Input} (turn : s.inputs = [] ∨ s.inputs = .blockTurn :: rest)
    (h : blockStep { s with inputs := rest } = .next t) :
    t = { s with inputs := rest } ∨ (∃ i, s.runs i ∧ exec i { s with inputs := rest } = .next t) ∨
      (s.busy = true ∧ t = raise (err .illegalCommand) { s with inputs := rest }) := by
  by_cases idle : s.busy = false ∨ s.rst = true
  · rw [blockStep_of_not_busy (s := { s with inputs := rest }) idle] at h
    cases h
    exact .inl rfl
  · simp only [not_or, Bool.not_eq_false, Bool.not_eq_true] at idle
    obtain ⟨busy, out⟩ := idle
    cases word : decode s.cmdLatch with
    | ok i =>
      rw [blockStep_of_decode (s := { s with inputs := rest }) out busy word] at h
      exact .inr (.inl ⟨i, ⟨turn.imp_right fun first => ⟨rest, first⟩, out, busy, word⟩, h⟩)
    | error x =>
      rw [blockStep_of_illegal (s := { s with inputs := rest }) out busy word] at h
      cases h
      exact .inr (.inr ⟨busy, rfl⟩)

/-- A step that does not reset the block is a command that succeeds, an error record, at most new read data, or a host write without SOFT_RESET. -/
theorem step_cases_of_no_reset {s t : State} (h : step s = .next t) (noReset : s.resetNext = false) :
    ∃ rest, (∃ i u, s.runs i ∧ Writes { s with inputs := rest } i u ∧ t = complete u) ∨
      (∃ x, s.busy = true ∧ t = raise x { s with inputs := rest }) ∨
      (∃ data n, t = { s with inputs := rest, rdata := data, draws := n }) ∨
      (∃ a v, s.inputs = .write a v :: rest ∧ t = hostWrite a v { s with inputs := rest } ∧
        (s.rst = false → target (byteAddr a) = .ctrl → v.getLsbD 31 = false)) := by
  obtain ⟨rest, next⟩ := step_cases h
  refine ⟨rest, ?_⟩
  rcases next with ⟨turn, block⟩ | ⟨a, -, rfl⟩ | ⟨a, v, first, rfl⟩ | ⟨level, first, rfl⟩
  · rcases blockTurn_cases turn block with rfl | ⟨i, runs, run⟩ | ⟨busy, rfl⟩
    · exact .inr (.inr (.inl ⟨s.rdata, s.draws, rfl⟩))
    · rcases exec_cases run with ⟨u, writes, rfl⟩ | ⟨x, -, rfl⟩
      · exact .inl ⟨i, u, runs, writes, rfl⟩
      · obtain ⟨-, -, busy, -⟩ := runs
        exact .inr (.inl ⟨x, busy, rfl⟩)
    · exact .inr (.inl ⟨_, busy, rfl⟩)
  · obtain ⟨data, n, read, -⟩ := hostRead_changes a { s with inputs := rest }
    exact .inr (.inr (.inl ⟨data, n, read⟩))
  · refine .inr (.inr (.inr ⟨a, v, first, rfl, fun out ctrl => ?_⟩))
    cases eq_one_of_target_ctrl ctrl
    simpa [State.resetNext, first, out] using noReset
  · have low : (level || s.rst) = false := by simpa [State.resetNext, first] using noReset
    rw [driveRst_of_low (s := { s with inputs := rest }) low]
    exact .inr (.inr (.inl ⟨s.rdata, s.draws, rfl⟩))

/-! ## A latched error (R145) -/

/-- A host write without SOFT_RESET and CLR_ERR keeps a latched record, and accepts no command. -/
theorem hostWrite_keeps_record {s : State} {a : BitVec 19} {v : Word} (latched : s.err = true) (free : s.busy = false)
    (keeps : s.rst = false → target (byteAddr a) = .ctrl → v.getLsbD 31 = false ∧ v.getLsbD 8 = false) :
    SameRecord s (hostWrite a v s) ∧ (hostWrite a v s).busy = false := by
  rcases hostWrite_cases a v s with ⟨-, hw⟩ | ⟨-, busy, -⟩ | ⟨out, -, hw⟩
  · rw [hw]
    exact ⟨⟨rfl, rfl, rfl, rfl, rfl⟩, free⟩
  · exact absurd (free.symm.trans busy) Bool.false_ne_true
  · rw [hw]
    cases tgt : target (byteAddr a) with
    | ctrl =>
      obtain ⟨soft, clear⟩ := keeps out tgt
      rw [writeTarget, writeCtrl_eq_ctrlWritten soft]
      simp [SameRecord, ctrlWritten, clear, free, -BitVec.getLsbD_eq_getElem]
    | cmd =>
      rw [writeTarget, offerCommand_of_err latched]
      exact ⟨⟨rfl, rfl, rfl, rfl, rfl⟩, free⟩
    | _ => exact ⟨⟨rfl, rfl, rfl, rfl, rfl⟩, free⟩

/-- Settles O22: no command is in progress while an error is latched, so only a host write could reach the record. -/
theorem errorRecordSticky : Obligations.ErrorRecordSticky := by
  intro s t inv latched noReset noClear h
  have free : s.busy = false := by
    refine Bool.eq_false_iff.2 fun busy => ?_
    obtain ⟨noError, -⟩ := inv.inProgress busy
    exact absurd (noError.symm.trans latched) Bool.false_ne_true
  suffices SameRecord s t ∧ t.busy = false by
    obtain ⟨⟨err, record⟩, idle⟩ := this
    obtain ⟨code, cmd, info0, info1⟩ := record
    exact ⟨err.trans latched, code, cmd, info0, info1, idle⟩
  obtain ⟨rest, ⟨i, u, ⟨-, -, busy, -⟩, -⟩ | ⟨x, busy, -⟩ | ⟨data, n, rfl⟩ | ⟨a, v, first, rfl, soft⟩⟩ :=
    step_cases_of_no_reset h noReset
  · exact absurd (free.symm.trans busy) Bool.false_ne_true
  · exact absurd (free.symm.trans busy) Bool.false_ne_true
  · exact ⟨⟨rfl, rfl, rfl, rfl, rfl⟩, free⟩
  · refine hostWrite_keeps_record (s := { s with inputs := rest }) latched free fun out ctrl => ⟨soft out ctrl, ?_⟩
    have keep := soft out ctrl
    cases eq_one_of_target_ctrl ctrl
    simpa [State.clearNext, first, show s.rst = false from out, keep, -BitVec.getLsbD_eq_getElem] using noClear

end Sys2Proof.Machine

/-! PROOFS. 70_reset_and_hazards.md R165–R167: what becomes of the memos (O27) and the codewords (O28) while the matrix changes, and of the matrix after D.CW (O60). -/

namespace Sys2Proof.Machine

/-! ## What a read of format or version answers (R123, R125) -/

section
variable {c : Configuration} {s : State} {d : ℕ} {f w : Word}

theorem eq_of_readFmt_memo (memo : s.fv = true) (h : readFmt c s d = .ok f) : f = s.fmt :=
  (Except.ok.inj ((readFmt_of_memo memo).symm.trans h)).symm

theorem eq_of_readVer_memo (memo : s.vv = true) (h : readVer c s d = .ok w) : w = s.ver :=
  (Except.ok.inj ((readVer_of_memo memo).symm.trans h)).symm

theorem fmtWord_getLsbD_31 (r : BitVec 5) : (fmtWord r).getLsbD 31 = true := by
  revert r
  decide

theorem verWord_getLsbD_31 (v : ℕ) : (verWord v).getLsbD 31 = true := by
  simp only [verWord, BitVec.getLsbD_append]
  rfl

/-- A format that is read has FV = 1, so that it is memoized (R123). -/
theorem fv_of_readFmt (h : readFmt c s d = .ok f) : f.getLsbD 31 = true := by
  cases memo : s.fv with
  | true => exact eq_of_readFmt_memo memo h ▸ memo
  | false =>
    simp only [readFmt, memo, Bool.false_eq_true, if_false] at h
    split at h
    · cases h
      exact fmtWord_getLsbD_31 _
    · split at h <;> cases h
      exact fmtWord_getLsbD_31 _

/-- A version that is read has VV = 1, so that it is memoized (R125). -/
theorem vv_of_readVer (h : readVer c s d = .ok w) : w.getLsbD 31 = true := by
  cases memo : s.vv with
  | true => exact eq_of_readVer_memo memo h ▸ memo
  | false =>
    simp only [readVer, memo, Bool.false_eq_true, if_false] at h
    split at h
    · cases h
      exact verWord_getLsbD_31 _
    · split at h
      · cases h
        exact verWord_getLsbD_31 _
      · split at h <;> cases h
        exact verWord_getLsbD_31 _

end

/-! ## What commands and host writes leave of memos and codewords -/

/-- A memo is overwritten with itself alone (R165). -/
theorem Writes.keeps_set_memos {s u : State} {i : Instr} (h : Writes s i u) (hi : ¬ clearsMemos i) :
    (s.fv = true → u.fmt = s.fmt) ∧ (s.vv = true → u.ver = s.ver) := by
  cases h with
  | matrix m creates => exact absurd (.inl creates) hi
  | quad => exact absurd (.inl (.inr (.inr ⟨_, rfl⟩))) hi
  | symbol => exact absurd (.inr rfl) hi
  | format present read => exact ⟨fun memo => eq_of_readFmt_memo memo read, fun _ => rfl⟩
  | version present read => exact ⟨fun _ => rfl, fun memo => eq_of_readVer_memo memo read⟩
  | codewords m present readF readV fits =>
    exact ⟨fun memo => eq_of_readFmt_memo memo readF, fun memo => eq_of_readVer_memo memo readV⟩
  | _ => exact ⟨fun _ => rfl, fun _ => rfl⟩

/-- The points that a command stores end below the codewords (R43). -/
theorem Writes.keeps_cw {s u : State} {i : Instr} (h : Writes s i u) (hi : i ≠ .dCw) (n : ℕ) : u.cw n = s.cw n := by
  cases h with
  | codewords => exact absurd rfl hi
  | points count fits =>
    refine read_writePoints_of_outside _ _ _ (.inr ?_)
    simp only [length_coordinates, ptAddr, cwAddr, Config.ptmax] at fits ⊢
    omega
  | _ => rfl

/-- No word that the host can write to holds a codeword (R43, R47). -/
theorem writeTarget_keeps_cw (s : State) (v : Word) (a : BitVec 19) {n : ℕ} (hn : n < 3706)
    (noCtrl : target (byteAddr a) ≠ .ctrl) : (writeTarget v s (target (byteAddr a))).cw n = s.cw n := by
  have place := target_placedAt (byteAddr a)
  have codeword : cwAddr n = 0x10000 + n := rfl
  generalize target (byteAddr a) = tgt at place noCtrl
  cases tgt with
  | ctrl => exact absurd rfl noCtrl
  | cmd =>
    rw [writeTarget, offerCommand]
    split <;> rfl
  | point x =>
    obtain ⟨rfl, -, high⟩ := place
    exact s.mem.read_writeBytes_of_outside _ (wordBytes v) (by rw [wordBytes_length]; omega)
  | load k =>
    have index : k < 512 := place
    exact s.mem.read_write_of_ne (by rw [codeword, lbAddr]; omega) _
  | pixel x =>
    obtain ⟨rfl, low, -⟩ := place
    exact s.mem.read_writeBytes_of_outside _ (wordBytes v) (by omega)
  | _ => rfl

theorem writeTarget_keeps_registers (s : State) (v : Word) {tgt : Target} (noCtrl : tgt ≠ .ctrl) :
    (writeTarget v s tgt).fmt = s.fmt ∧ (writeTarget v s tgt).ver = s.ver ∧ (writeTarget v s tgt).cwCount = s.cwCount := by
  cases tgt with
  | ctrl => exact absurd rfl noCtrl
  | cmd =>
    rw [writeTarget, offerCommand]
    split <;> exact ⟨rfl, rfl, rfl⟩
  | _ => exact ⟨rfl, rfl, rfl⟩

/-- A host write that is no SOFT_RESET leaves what the decoder commands have left (R165, R167). -/
theorem hostWrite_keeps_decoded {s : State} {a : BitVec 19} {v : Word}
    (soft : s.rst = false → target (byteAddr a) = .ctrl → v.getLsbD 31 = false) :
    ((hostWrite a v s).fmt = s.fmt ∧ (hostWrite a v s).ver = s.ver ∧ (hostWrite a v s).cwCount = s.cwCount) ∧
      ∀ n < 3706, (hostWrite a v s).cw n = s.cw n := by
  rcases hostWrite_cases a v s with ⟨-, hw⟩ | ⟨-, -, -, hw⟩ | ⟨out, -, hw⟩ <;> rw [hw]
  · exact ⟨⟨rfl, rfl, rfl⟩, fun _ _ => rfl⟩
  · exact ⟨⟨rfl, rfl, rfl⟩, fun _ _ => rfl⟩
  · by_cases ctrl : target (byteAddr a) = .ctrl
    · rw [ctrl, writeTarget, writeCtrl_eq_ctrlWritten (soft out ctrl)]
      exact ⟨⟨rfl, rfl, rfl⟩, fun _ _ => rfl⟩
    · exact ⟨writeTarget_keeps_registers s v ctrl, fun n hn => writeTarget_keeps_cw s v a hn ctrl⟩

/-- Settles O27: commands write a set memo with itself, the host reaches none, and D.FMT and D.VER answer the memo. -/
theorem memosClearedOnlyBy : Obligations.MemosClearedOnlyBy := by
  refine ⟨fun s t h noReset other => ?step, fun s m present => ⟨fun memo => ?format, fun memo => ?version⟩⟩
  case step =>
    obtain ⟨rest, ⟨i, u, runs, writes, rfl⟩ | ⟨x, -, rfl⟩ | ⟨data, n, rfl⟩ | ⟨a, v, -, rfl, soft⟩⟩ :=
      step_cases_of_no_reset h noReset
    · exact writes.keeps_set_memos (other i runs)
    · exact ⟨fun _ => rfl, fun _ => rfl⟩
    · exact ⟨fun _ => rfl, fun _ => rfl⟩
    · obtain ⟨⟨fmt, ver, -⟩, -⟩ := hostWrite_keeps_decoded (s := { s with inputs := rest }) soft
      exact ⟨fun _ => fmt, fun _ => ver⟩
  case format => exact exec_dFmt_of_ok (s := { s with bm := m }) present (readFmt_of_memo memo)
  case version => exact exec_dVer_of_ok (s := { s with bm := m }) present (readVer_of_memo memo)

/-- Settles O28: D.CW alone writes codewords, and where it succeeds it leaves ERR as it was. -/
theorem codewordsOutliveTheirMatrix : Obligations.CodewordsOutliveTheirMatrix := by
  intro s t h noReset fails
  obtain ⟨rest, ⟨i, u, runs, writes, rfl⟩ | ⟨x, -, rfl⟩ | ⟨data, n, rfl⟩ | ⟨a, v, -, rfl, soft⟩⟩ :=
    step_cases_of_no_reset h noReset
  · have other : i ≠ .dCw := by
      rintro rfl
      obtain ⟨noError, error⟩ := fails runs
      obtain ⟨same, -⟩ := writes.keeps_record
      exact absurd (noError.symm.trans (same.symm.trans error)) Bool.false_ne_true
    exact ⟨writes.keeps_cwCount other, fun n _ => writes.keeps_cw other n⟩
  · exact ⟨rfl, fun _ _ => rfl⟩
  · exact ⟨rfl, fun _ _ => rfl⟩
  · obtain ⟨⟨-, -, count⟩, bytes⟩ := hostWrite_keeps_decoded (s := { s with inputs := rest }) soft
    exact ⟨count, bytes⟩

/-! ## D.CW whatever it reads (R133, R166) -/

/-- What D.CW has written, before its completion, where the format read is `f` and the version read is `w`, whether or not they fit the matrix. -/
def State.extracted (s : State) (f w : Word) : State :=
  let r : State := { s with fmt := f, ver := w }
  let bm := unmask standard s.bm r.maskId s.bmDim.toNat
  let out := walk standard bm r.version s.bmDim.toNat
  { r with bm := bm, mem := s.mem.writeBytes (cwAddr 0) out, cwCount := BitVec.ofNat 32 out.length }

/-- D.CW is `extracted` with the words that it reads, or an error record. -/
theorem exec_dCw_cases {s t : State} (h : exec .dCw s = .next t) :
    (s.bmDim ≠ 0#32 ∧ ∃ f w, readFmt standard s s.bmDim.toNat = .ok f ∧ readVer standard s s.bmDim.toNat = .ok w ∧
      t = complete (s.extracted f w)) ∨ ∃ x, t = raise x s := by
  rcases finish_next s _ t h with ⟨u, run, rfl⟩ | ⟨x, -, rfl⟩
  · simp only [bind_ok_iff] at run
    obtain ⟨d, matrix, f, hf, w, hw, -, -, result⟩ := run
    rcases needMatrix_cases s with ⟨present, found⟩ | ⟨-, found⟩ <;> cases matrix.symm.trans found
    cases result
    exact .inl ⟨present, f, w, hf, hw, rfl⟩
  · exact .inr ⟨x, rfl⟩

/-- A D.CW that leaves no error has extracted. -/
theorem extracted_of_no_error {s t : State} (h : exec .dCw s = .next t) (noError : t.err = false) :
    s.bmDim ≠ 0#32 ∧ ∃ f w, readFmt standard s s.bmDim.toNat = .ok f ∧ readVer standard s s.bmDim.toNat = .ok w ∧
      t = complete (s.extracted f w) := by
  rcases exec_dCw_cases h with extracts | ⟨x, rfl⟩
  · exact extracts
  · exact absurd noError (by simp)

section
variable {s : State} {f w : Word}

/-- The words of the first D.CW are what a second directly after it reads. -/
theorem reads_after_extracted {g x : Word} {d e : ℕ} (hf : readFmt standard s d = .ok f) (hw : readVer standard s d = .ok w)
    (hg : readFmt standard (complete (s.extracted f w)) e = .ok g) (hx : readVer standard (complete (s.extracted f w)) e = .ok x) :
    g = f ∧ x = w :=
  ⟨eq_of_readFmt_memo (fv_of_readFmt hf) hg, eq_of_readVer_memo (vv_of_readVer hw) hx⟩

/-- Unmasking with the mask of D.CW gives back the matrix from before it (R126). -/
theorem unmask_extracted : unmask standard (s.extracted f w).bm (s.extracted f w).maskId s.bmDim.toNat = s.bm :=
  unmask_unmask ..

/-- The codewords that are counted are those of the walk. -/
theorem extracted_cw (canonical : s.mem.wf) {n : ℕ} (hn : n < (s.extracted f w).cwCount.toNat) :
    (s.extracted f w).cw n = (walk standard (s.extracted f w).bm (s.extracted f w).version s.bmDim.toNat).getD n 0#8 := by
  have counted := hn.trans_le (Nat.mod_le _ _)
  refine (Memory.read_writeBytes _ canonical _ _ _).trans ((if_pos ?_).trans ?_)
  · simp only [cwAddr]
    exact ⟨Nat.le_add_right _ _, Nat.add_lt_add_left counted _⟩
  · rw [show cwAddr n - cwAddr 0 = n from Nat.add_sub_cancel_left ..]
    rfl

end

/-- D.UNMASK on a matrix is `unmask` (R132). -/
theorem exec_dUnmask_of_present {s : State} (present : s.bmDim ≠ 0#32) (m : BitVec 3) :
    exec (.dUnmask m) s = .next (complete { s with bm := unmask standard s.bm m s.bmDim.toNat }) :=
  finish_bind_ok (needMatrix_of_present present) _

/-- Settles O60: a second mask over the same matrix undoes the first, whether D.UNMASK applies it or a second D.CW, which reads the memos of the first. -/
theorem unmaskAfterCodewords : Obligations.UnmaskAfterCodewords := by
  intro s t u noError canonical first
  refine ⟨fun failed => ?failure, fun succeeded unmasks => ?unmask, fun succeeded second succeeded' => ?again⟩
  case failure =>
    rcases exec_dCw_cases first with ⟨-, f, w, -, -, rfl⟩ | ⟨x, rfl⟩
    · exact absurd (noError.symm.trans failed) Bool.false_ne_true
    · rfl
  case unmask =>
    obtain ⟨present, f, w, -, -, rfl⟩ := extracted_of_no_error first succeeded
    have run := (exec_dUnmask_of_present (s := complete (s.extracted f w)) present _).symm.trans unmasks
    cases run
    exact unmask_extracted
  case again =>
    obtain ⟨-, f, w, hf, hw, rfl⟩ := extracted_of_no_error first succeeded
    obtain ⟨-, g, x, hg, hx, rfl⟩ := extracted_of_no_error second succeeded'
    obtain ⟨rfl, rfl⟩ := reads_after_extracted hf hw hg hx
    have restored : (State.extracted (complete (s.extracted g x)) g x).bm = s.bm := unmask_extracted
    have stored : (complete (s.extracted g x)).mem.wf := Memory.writeBytes_wf _ canonical _ _
    refine ⟨restored, fun n hn => (extracted_cw stored hn).trans ?_⟩
    rw [restored]
    rfl

end Sys2Proof.Machine
